-- ==== Sys2Proof/Word.lean ====
section
/-! DEFINITION. The bit-vector types the spec's values have (00_scope.md R7, R9). -/

namespace Sys2Proof

/-- One byte of the block offset space. -/
abbrev Byte := BitVec 8

/-- One sample word: 16 bits, signed two's complement (10_state.md R42). -/
abbrev Sample := BitVec 16

/-- The image of a register, and a command word: 64 bits (00_scope.md R7). -/
abbrev Word64 := BitVec 64

/-- The bit pattern of an IEEE-754 binary64 value (10_state.md R25). -/
abbrev F64 := BitVec 64

/-- A block offset: 24 bits (20_memory.md R60). -/
abbrev Offset := BitVec 24

end Sys2Proof
end

