-- ==== Sys2Proof/Syntax.lean ====
section
/-! DEFINITION. The instructions: the five commands of 30_encoding.md R91, one constructor a row of the opcode table.
A command word has no operand field (R90), so no constructor has an argument. -/

namespace Sys2Proof

/-- The commands of the block (30_encoding.md R91). -/
inductive Instr where
  /-- Does nothing but the epilogue (44_commands.md R202). -/
  | nop
  /-- Renders one buffer without playback (44_commands.md R203). -/
  | render
  /-- Off to On: renders one buffer and begins playback (44_commands.md R204). -/
  | activate
  /-- On to Off: stops playback (44_commands.md R205). -/
  | deactivate
  /-- On to On: renders a fresh buffer and replaces the playback buffer (44_commands.md R206). -/
  | tick
  deriving DecidableEq, Repr

end Sys2Proof
end

