-- ==== Sys2Proof/WellFormed.lean ====
section
/-! DEFINITION. What it takes for a command word to be legal (30_encoding.md R90, R92), check by check, and for a command
to be well formed. -/

namespace Sys2Proof

/-- The MBZ field, bits 63:8, is zero (30_encoding.md R90). -/
def mbzClear (w : Word64) : Bool := w >>> 8 == 0

/-- The OPCODE field, bits 7:0, is one of the five assigned opcodes (30_encoding.md R91, R93). -/
def opcodeAssigned (w : Word64) : Bool := decide ((w.setWidth 8 : Byte).toNat ≤ 4)

/-- A command word is legal iff both checks hold (30_encoding.md R92). -/
def legalWord (w : Word64) : Bool := mbzClear w && opcodeAssigned w

/-- A command carries no operand (30_encoding.md R90), so every command is well formed. -/
def Instr.wellFormed : Instr → Bool
  | .nop => true
  | .render => true
  | .activate => true
  | .deactivate => true
  | .tick => true

end Sys2Proof
end

