-- ==== Sys2Proof/Decode.lean ====
section
/-! DEFINITION. Decoding a command word, and the encoder (30_encoding.md R90 to R94). -/

namespace Sys2Proof

/-- Why the decoder turns bytes away. The block itself reports each as ILLEGAL_CMD (30_encoding.md R92). -/
inductive IllegalWord where
  /-- Some bit of 63:8 is set (30_encoding.md R93). -/
  | mbzNotZero
  /-- The opcode is 0x05 to 0xFF (30_encoding.md R93). -/
  | reservedOpcode
  /-- Not the eight bytes of a command word, which has one length only (30_encoding.md R94). -/
  | wrongLength
  deriving DecidableEq, Repr

/-- OPCODE, bits 7:0 of a command word (30_encoding.md R90). -/
def opcodeField (w : Word64) : Byte := w.setWidth 8

/-- `decode` of 30_encoding.md R92: total on every 64-bit word. -/
def decode (w : Word64) : Except IllegalWord Instr :=
  if w >>> 8 ≠ 0 then .error .mbzNotZero
  else
    match (opcodeField w).toNat with
    | 0x00 => .ok .nop
    | 0x01 => .ok .render
    | 0x02 => .ok .activate
    | 0x03 => .ok .deactivate
    | 0x04 => .ok .tick
    | _ => .error .reservedOpcode

/-- The word whose bytes, lowest address first, are `bs` (20_memory.md R68: little-endian). -/
def wordOfBytes : List Byte → Word64
  | [] => 0
  | b :: bs => (wordOfBytes bs <<< 8) ||| b.setWidth 64

/-- The low `n` bytes of `w`, lowest address first (20_memory.md R68: little-endian). -/
def bytesOfWord : Nat → Word64 → List Byte
  | 0, _ => []
  | n + 1, w => w.setWidth 8 :: bytesOfWord n (w >>> 8)

/-- Decoding the bytes of a command word as the bus lays them out: total on any list of bytes. -/
def decodeBytes (bs : List Byte) : Except IllegalWord Instr :=
  if bs.length = 8 then decode (wordOfBytes bs) else .error .wrongLength

/-- The opcode of a command (30_encoding.md R91). -/
def Instr.opcode : Instr → Byte
  | .nop => 0x00
  | .render => 0x01
  | .activate => 0x02
  | .deactivate => 0x03
  | .tick => 0x04

/-- The command word of a command: its opcode in bits 7:0 and zero above (30_encoding.md R90). -/
def encode (i : Instr) : Word64 := i.opcode.setWidth 64

/-- The eight bytes of a command's word, lowest address first. -/
def encodeBytes (i : Instr) : List Byte := bytesOfWord 8 (encode i)

/-- What the decoder reads from the row of the opcode table whose `nbits` bits are `w`: the bits above `nbits` are zero,
and the eight bytes lie in the block's byte order (20_memory.md R68). -/
def decodeTableWord (nbits w : Nat) : Option Instr :=
  match decodeBytes (bytesOfWord 8 (BitVec.ofNat 64 (w % 2 ^ nbits))) with
  | .ok i => some i
  | .error _ => none

end Sys2Proof
end

