-- ==== Sys2Proof/Machine/State.lean ====
section
/-! DEFINITION. The machine's state: every piece of state spec/10_state.md names, and the fields of the model itself. All of
it is plain data. The registers hold only the bits that exist: a reserved bit reads 0 and a write to it is ignored
(00_scope.md R9), so it has no storage. -/

namespace Sys2Proof.Machine

/-- The waveform kinds, codes 0 to 3 (30_encoding.md R95). A held KIND is always legal (10_state.md R24). -/
inductive WaveKind where
  | sine
  | triangle
  | sawtooth
  | square
  deriving DecidableEq, Repr

/-- The two sample banks (10_state.md R42). -/
inductive Bank where
  | bank0
  | bank1
  deriving DecidableEq, Repr

/-- STATUS.RESULT (30_encoding.md R96). Codes 6 to 15 are never produced, so they have no constructor. -/
inductive ResultCode where
  | ok
  | zeroLength
  | overCapacity
  | badParam
  | badState
  | illegalCmd
  deriving DecidableEq, Repr

/-- The reasons a command fails: the argument of `raise CmdError(code)` (60_exceptions.md R231). -/
inductive CmdError where
  | zeroLength
  | overCapacity
  | badParam
  | badState
  | illegalCmd
  deriving DecidableEq, Repr

/-- What the world outside can do to the block (70_reset_and_hazards.md R262, R271; log entries 1, 13, 15). -/
inductive Event where
  /-- The host reads `n` bytes at a block offset. -/
  | hostRead (off : Offset) (n : Nat)
  /-- The host writes the low `n` bytes of `v` at a block offset. -/
  | hostWrite (off : Offset) (n : Nat) (v : Word64)
  /-- The sink reads word `i` of the bank it holds to be the playback bank (20_memory.md R75, R76). -/
  | sinkRead (b : Bank) (i : Nat)
  /-- The platform asserts the reset (70_reset_and_hazards.md R260). -/
  | reset
  deriving DecidableEq, Repr

/-- What the latest event answered (log entry 2). -/
inductive Reply where
  /-- Nothing has happened since reset. -/
  | none
  /-- A host read of `n` bytes returned `v`, zero above its `n` bytes. -/
  | hostData (n : Nat) (v : Word64)
  /-- A host write completed (20_memory.md R72). -/
  | writeDone
  /-- A sink read returned `v`. -/
  | sinkData (v : Sample)
  /-- The reset was asserted. -/
  | resetDone
  deriving DecidableEq, Repr

/-- The sample memory: the bytes some render has written since reset, by block offset (20_memory.md R62), offsets strictly
rising. An offset that is not listed has no value of its own: no render has written it (log entry 4). -/
abbrev Memory := List Host.Cell

/-- The whole state of the block. -/
structure State where
  /-- CTRL bits 1:0: FILT_EN is bit 0, TRI_FIX is bit 1 (10_state.md R23). -/
  ctrl : BitVec 2
  /-- WAVE.KIND (10_state.md R24). -/
  wave : WaveKind
  /-- AMPLITUDE (10_state.md R26). -/
  amplitude : F64
  /-- FREQUENCY_HZ (10_state.md R27). -/
  frequencyHz : F64
  /-- PULSE_WIDTH (10_state.md R28). -/
  pulseWidth : F64
  /-- CUTOFF_HZ (10_state.md R29). -/
  cutoffHz : F64
  /-- ATTACK_MS (10_state.md R30). -/
  attackMs : F64
  /-- DECAY_MS (10_state.md R30). -/
  decayMs : F64
  /-- SUSTAIN_LEVEL (10_state.md R31). -/
  sustainLevel : F64
  /-- RELEASE_MS (10_state.md R30). -/
  releaseMs : F64
  /-- SAMPLE_RATE_HZ bits 31:0 (10_state.md R32). -/
  sampleRateHz : BitVec 32
  /-- DURATION_MS bits 31:0 (10_state.md R33). -/
  durationMs : BitVec 32
  /-- STATUS.ON (10_state.md R35). -/
  on : Bool
  /-- STATUS.PLAY_BANK (10_state.md R35). -/
  playBank : Bank
  /-- STATUS.LAST_BANK (10_state.md R35). -/
  lastBank : Bank
  /-- STATUS.LAST_VALID (10_state.md R35). -/
  lastValid : Bool
  /-- STATUS.RESULT (10_state.md R37). -/
  result : ResultCode
  /-- STATUS.LAST_OP (10_state.md R37). -/
  lastOp : Byte
  /-- ERR bits 7:0 (10_state.md R38). -/
  err : BitVec 8
  /-- BANK0_LEN bits 31:0 (10_state.md R39). -/
  bank0Len : BitVec 32
  /-- BANK1_LEN bits 31:0 (10_state.md R39). -/
  bank1Len : BitVec 32
  /-- FILT_WN (10_state.md R40). -/
  filtWn : F64
  /-- FILT_B0 (10_state.md R40). -/
  filtB0 : F64
  /-- FILT_B1 (10_state.md R40). -/
  filtB1 : F64
  /-- FILT_A1 (10_state.md R40). -/
  filtA1 : F64
  /-- The sample banks (10_state.md R42, 20_memory.md R62). -/
  mem : Memory
  /-- MODEL: the events still to come, oldest first (log entry 1). -/
  inbox : List Event
  /-- MODEL: the answer to the latest event (log entry 2). -/
  reply : Reply
  /-- MODEL: how many resets have been asserted, the index of the free draw of unwritten bytes (log entry 4). -/
  drawEpoch : Nat
  /-- MODEL: how many racing sink reads were made, the index of their free draw (log entry 5). -/
  sinkDraws : Nat
  deriving DecidableEq, Repr

/-- The state right after reset (70_reset_and_hazards.md R260, R261), with no event pending. -/
def State.reset : State where
  ctrl := 0
  wave := .sine
  amplitude := 0
  frequencyHz := 0
  pulseWidth := 0
  cutoffHz := 0
  attackMs := 0
  decayMs := 0
  sustainLevel := 0
  releaseMs := 0
  sampleRateHz := 0
  durationMs := 0
  on := false
  playBank := .bank0
  lastBank := .bank0
  lastValid := false
  result := .ok
  lastOp := 0
  err := 0
  bank0Len := 0
  bank1Len := 0
  filtWn := 0
  filtB0 := 0
  filtB1 := 0
  filtA1 := 0
  mem := []
  inbox := []
  reply := .none
  drawEpoch := 0
  sinkDraws := 0

/-- The reasons a step can stop the machine: none. The block never traps, hangs or gets stuck (60_exceptions.md R230, R246;
93_implementation_defined.md section 1), so this type has no constructor and no step can answer with a fault. -/
inductive Fault : Type
  deriving DecidableEq, Repr

/-- The reasons a step can refuse. No step refuses: every command has its meaning, and an illegal command word has the
effect 60_exceptions.md R231 gives it (93_implementation_defined.md U8). -/
inductive Refusal where
  /-- A command with no meaning yet. Raised by nobody: `exec` has a meaning for every command. Safe. -/
  | notModelled (mnemonic : String)
  deriving DecidableEq, Repr

end Sys2Proof.Machine
end

