-- ==== Sys2Proof/Machine/Flags.lean ====
section
/-! DEFINITION. Status codes, error flags and the STATUS image (10_state.md R35 to R38, R43; 60_exceptions.md R231 to
R233). -/

namespace Sys2Proof.Machine

/-- The 4-bit code of a result (30_encoding.md R96). -/
def ResultCode.code : ResultCode → BitVec 4
  | .ok => 0
  | .zeroLength => 1
  | .overCapacity => 2
  | .badParam => 3
  | .badState => 4
  | .illegalCmd => 5

/-- The result code a failure leaves in STATUS.RESULT (60_exceptions.md R231). -/
def CmdError.result : CmdError → ResultCode
  | .zeroLength => .zeroLength
  | .overCapacity => .overCapacity
  | .badParam => .badParam
  | .badState => .badState
  | .illegalCmd => .illegalCmd

/-- The ERR bit a command's result sets: `1 << (c - 1)` for a code c other than OK, nothing for OK
(60_exceptions.md R232). -/
def ResultCode.errFlag : ResultCode → BitVec 8
  | .ok => 0x00
  | .zeroLength => 0x01
  | .overCapacity => 0x02
  | .badParam => 0x04
  | .badState => 0x08
  | .illegalCmd => 0x10

/-- ERR.BAD_KIND, bit 5 (60_exceptions.md R233). -/
def badKindFlag : BitVec 8 := 0x20

/-- ERR.NAN_SAMPLE, bit 6 (60_exceptions.md R233). -/
def nanSampleFlag : BitVec 8 := 0x40

/-- ERR.BAD_ACCESS, bit 7 (60_exceptions.md R233). -/
def badAccessFlag : BitVec 8 := 0x80

/-- Sets sticky ERR flags: the engine only sets them (10_state.md R38). -/
def setErr (flags : BitVec 8) (s : State) : State := { s with err := s.err ||| flags }

/-- The host's write of ones clears flags: `ERR <- ERR & ~wdata` (10_state.md R38). -/
def clearErr (flags : BitVec 8) (s : State) : State := { s with err := s.err &&& ~~~flags }

/-- The number of a bank as a bit (10_state.md R35). -/
def Bank.bit : Bank → BitVec 1
  | .bank0 => 0
  | .bank1 => 1

/-- `1 - b` (20_memory.md R70). -/
def Bank.other : Bank → Bank
  | .bank0 => .bank1
  | .bank1 => .bank0

/-- STATUS as it reads (10_state.md R35). -/
def statusImage (s : State) : Word64 :=
  (BitVec.ofBool s.on).setWidth 64
    ||| (s.playBank.bit.setWidth 64 <<< 1)
    ||| (s.lastBank.bit.setWidth 64 <<< 2)
    ||| ((BitVec.ofBool s.lastValid).setWidth 64 <<< 3)
    ||| (s.result.code.setWidth 64 <<< 8)
    ||| (s.lastOp.setWidth 64 <<< 16)

end Sys2Proof.Machine
end

