-- ==== Sys2Proof/Config.lean ====
section
/-! DEFINITION. What an implementation fixes and the spec leaves open (00_scope.md R6), and the values the spec calls
"any value" (93_implementation_defined.md U1, U2). Each is opaque and has no body, so that nothing proved about the
model rests on what it is. The parameters that R6 and R14 bound are made from these in Machine/Params.lean. -/

namespace Sys2Proof.Config

/-- Chooses BUF_CAPACITY within the bounds of 00_scope.md R6 (log entry 6). -/
opaque capacityChoice : Nat

/-- Chooses BLOCK_BASE among the multiples of 2^24 (00_scope.md R6, log entry 7). -/
opaque baseChoice : Nat

/-- Chooses SIN64 among the functions 00_scope.md R14 admits (log entry 8). -/
opaque sinChoice : F64 → F64

/-- Chooses TAN64 among the functions 00_scope.md R14 admits (log entry 8). -/
opaque tanChoice : F64 → F64

/-- The value a bank byte holds that no render has written since reset, by the number of resets so far and the byte's
block offset: any value (93_implementation_defined.md U1, log entry 4). -/
opaque unwrittenByte : Nat → Nat → Byte

/-- The value a racing sink read returns, a fresh one for each such read: any value (93_implementation_defined.md U2,
log entry 5). -/
opaque sinkRaceSample : Nat → Sample

end Sys2Proof.Config
end

