-- ==== Sys2Proof/Machine/Binary64.lean ====
section
/-! DEFINITION. IEEE-754 binary64 (00_scope.md R11 to R13).

A finite binary64 value is a whole multiple of 2^-1074, the least subnormal, here called one *unit*. Sums are exact whole
numbers of units and products and quotients are exact ratios of whole numbers, so each operation computes exactly and then
rounds once. -/

namespace Sys2Proof.Machine

/-! ### Rounding to nearest, ties to even -/

/-- The nearest integer to `n / d`, ties to even: RHE_Q of 00_scope.md R12 on a non-negative rational. -/
def rheDiv (n d : Nat) : Nat :=
  let q := n / d
  let r := n % d
  if 2 * r < d then q
  else if d < 2 * r then q + 1
  else if q % 2 = 0 then q else q + 1

/-- The magnitude pattern (bits 62:0) of infinity. -/
def infMagnitude : Nat := 0x7FF0000000000000

/-- The units in 1.0. -/
def unitsPerOne : Nat := 2 ^ 1074

/-- The whole number of units in the magnitude pattern `m` of a finite value: the fraction of a subnormal, or the
53-bit significand shifted by the biased exponent less one (10_state.md R25). -/
def magnitudeUnits (m : Nat) : Nat :=
  if m < 2 ^ 52 then m else (2 ^ 52 + m % 2 ^ 52) * 2 ^ (m / 2 ^ 52 - 1)

/-- The magnitude pattern nearest to `n / d` units, ties to even, infinity past the largest finite value (00_scope.md
R11). The significand has 53 bits, so the quantum is 2 to the power of the quotient's bit length less 53, and at least
one unit. -/
def roundUnits (n d : Nat) : Nat :=
  let sh := Nat.log2 (n / d) - 52
  min (sh * 2 ^ 52 + rheDiv n (d * 2 ^ sh)) infMagnitude

/-! ### Fields, classes and constants -/

/-- Bits 62:0 of a pattern. -/
def f64Magnitude (x : F64) : Nat := x.toNat % 2 ^ 63

/-- Bit 63 of a pattern. -/
def f64Negative (x : F64) : Bool := x.msb

/-- The pattern with sign `neg` and magnitude `m`. -/
def f64Pack (neg : Bool) (m : Nat) : F64 := BitVec.ofNat 64 (if neg then 2 ^ 63 + m else m)

/-- isFinite of 00_scope.md R12. -/
def f64IsFinite (x : F64) : Bool := decide (f64Magnitude x < infMagnitude)

/-- Whether a pattern is +inf or -inf. -/
def f64IsInf (x : F64) : Bool := decide (f64Magnitude x = infMagnitude)

/-- Whether a pattern is a NaN, of any payload. -/
def f64IsNaN (x : F64) : Bool := decide (infMagnitude < f64Magnitude x)

/-- The NaN an operation of the datapath gives. Its payload can be read nowhere (93_implementation_defined.md U12).
DESIGN CHOICE, safe (log entry 9). -/
def f64NaN : F64 := 0x7FF8000000000000#64

def f64PosZero : F64 := 0x0000000000000000#64
def f64PosInf : F64 := 0x7FF0000000000000#64
def f64Half : F64 := 0x3FE0000000000000#64
def f64One : F64 := 0x3FF0000000000000#64
def f64Two : F64 := 0x4000000000000000#64
def f64Thousand : F64 := 0x408F400000000000#64
def f64Max16 : F64 := 0x40DFFFC000000000#64
def f64Min16 : F64 := 0xC0E0000000000000#64

/-- PI64 of 00_scope.md R13. -/
def pi64 : F64 := 0x400921FB54442D18#64

/-- PI64/2, the end of TAN64's domain in 00_scope.md R14. -/
def halfPi64 : F64 := 0x3FF921FB54442D18#64

/-- PRED1 of 00_scope.md R13. -/
def pred1 : F64 := 0x3FEFFFFFFFFFFFFF#64

/-- SCALE16 = 32767.0 of 00_scope.md R13 and 40_render_pipeline.md R117. -/
def scale16 : F64 := 0x40DFFFC000000000#64

/-- SEG_MAX = 2^52 of 00_scope.md R13. -/
def segMax : Nat := 2 ^ 52

/-! ### The value of a pattern -/

/-- A finite pattern's exact value, in units. -/
def f64Units (x : F64) : Int :=
  if f64Negative x then -(magnitudeUnits (f64Magnitude x) : Int) else magnitudeUnits (f64Magnitude x)

/-- The pattern nearest to the exact value of `u` units, `u` not zero. -/
def f64OfUnits (u : Int) : F64 := f64Pack (decide (u < 0)) (roundUnits u.natAbs 1)

/-- `f64(k)` of 00_scope.md R11. -/
def f64OfNat (k : Nat) : F64 := f64Pack false (roundUnits (k * unitsPerOne) 1)

/-- `f64(k)` of 00_scope.md R11, of a signed integer. -/
def f64OfInt (k : Int) : F64 := f64Pack (decide (k < 0)) (roundUnits (k.natAbs * unitsPerOne) 1)

/-! ### Comparisons (00_scope.md R12: exact, false with NaN) -/

/-- Patterns other than NaNs lie in the order of this key, which is the same for both zeros. -/
def f64Key (x : F64) : Int := if f64Negative x then -(f64Magnitude x : Int) else f64Magnitude x

/-- `x < y`. -/
def f64Lt (x y : F64) : Bool := !f64IsNaN x && !f64IsNaN y && decide (f64Key x < f64Key y)

/-- `x <= y`. -/
def f64Le (x y : F64) : Bool := !f64IsNaN x && !f64IsNaN y && decide (f64Key x ≤ f64Key y)

/-! ### Arithmetic (00_scope.md R11) -/

/-- The pattern with bit 63 inverted. -/
def f64Neg (x : F64) : F64 := x ^^^ 0x8000000000000000#64

/-- `x + y`. Zeros of both signs, and an exact sum of zero, give +0.0 unless both operands are negative (IEEE-754;
PRESUMED, log entry 10). -/
def f64Add (x y : F64) : F64 :=
  if f64IsNaN x || f64IsNaN y then f64NaN
  else if f64IsInf x then
    if f64IsInf y && f64Negative x != f64Negative y then f64NaN else x
  else if f64IsInf y then y
  else
    let u := f64Units x + f64Units y
    if u = 0 then f64Pack (f64Negative x && f64Negative y) 0 else f64OfUnits u

/-- `x - y`. -/
def f64Sub (x y : F64) : F64 := f64Add x (f64Neg y)

/-- `x * y`. -/
def f64Mul (x y : F64) : F64 :=
  let neg := f64Negative x != f64Negative y
  if f64IsNaN x || f64IsNaN y then f64NaN
  else if f64IsInf x || f64IsInf y then
    if f64Magnitude x = 0 || f64Magnitude y = 0 then f64NaN else f64Pack neg infMagnitude
  else
    f64Pack neg (roundUnits (magnitudeUnits (f64Magnitude x) * magnitudeUnits (f64Magnitude y)) unitsPerOne)

/-- `x / y`. -/
def f64Div (x y : F64) : F64 :=
  let neg := f64Negative x != f64Negative y
  if f64IsNaN x || f64IsNaN y then f64NaN
  else if f64IsInf x then
    if f64IsInf y then f64NaN else f64Pack neg infMagnitude
  else if f64IsInf y then f64Pack neg 0
  else if f64Magnitude y = 0 then
    if f64Magnitude x = 0 then f64NaN else f64Pack neg infMagnitude
  else
    f64Pack neg
      (roundUnits (magnitudeUnits (f64Magnitude x) * unitsPerOne) (magnitudeUnits (f64Magnitude y)))

/-! ### Exact helpers (00_scope.md R12) -/

/-- ABS: clears the sign bit. -/
def f64Abs (x : F64) : F64 := x &&& 0x7FFFFFFFFFFFFFFF#64

/-- FLOOR: the largest integral value at or below a finite `x`; `x` itself if it is integral or not finite. -/
def f64Floor (x : F64) : F64 :=
  if f64IsFinite x then
    let k := f64Units x / (unitsPerOne : Int)
    if k * (unitsPerOne : Int) = f64Units x then x else f64OfInt k
  else x

/-- FRAC: `x - FLOOR(x)`. -/
def f64Frac (x : F64) : F64 := f64Sub x (f64Floor x)

/-- MOD2 of an integral value: 1.0 if odd, +0.0 if even, NaN if not finite. -/
def f64Mod2 (k : F64) : F64 :=
  if f64IsFinite k then
    if f64Units k / (unitsPerOne : Int) % 2 = 1 then f64One else f64PosZero
  else f64NaN

/-- RHE: the nearest integral value, ties to even; `x` itself when not finite. -/
def f64Rhe (x : F64) : F64 :=
  if f64IsFinite x then
    f64Pack (f64Negative x)
      (roundUnits (rheDiv (magnitudeUnits (f64Magnitude x)) unitsPerOne * unitsPerOne) 1)
  else x

/-- CLAMP01: +0.0 if `x < 0`, 1.0 if `x > 1`, and `x` otherwise. -/
def f64Clamp01 (x : F64) : F64 :=
  if f64Lt x f64PosZero then f64PosZero else if f64Lt f64One x then f64One else x

/-- `min(max(x, lo), hi)` of 40_render_pipeline.md R116, for an `x` that is no NaN. -/
def f64Saturate (x lo hi : F64) : F64 :=
  if f64Lt x lo then lo else if f64Lt hi x then hi else x

/-- The integer part of a finite value, truncated toward zero. -/
def f64Trunc (x : F64) : Int := (f64Units x).tdiv (unitsPerOne : Int)

end Sys2Proof.Machine
end

