-- ==== Sys2Proof/Machine/Params.lean ====
section
/-! DEFINITION. The parameters of 00_scope.md R6, each made from an opaque choice so that it ranges over everything R6 and
R14 admit and over nothing else. -/

namespace Sys2Proof.Machine

/-- BUF_CAPACITY: any integer with 48000 <= BUF_CAPACITY <= 2^21 (00_scope.md R6, log entry 6). -/
def bufCapacity : Nat := Config.capacityChoice % (2 ^ 21 - 48000 + 1) + 48000

/-- BLOCK_BASE: any multiple of 2^24 (00_scope.md R6, log entry 7). -/
def blockBase : Nat := Config.baseChoice * 2 ^ 24

/-- The host physical address of a block offset (20_memory.md R60). -/
def hostAddress (off : Offset) : Nat := blockBase + off.toNat

/-- The block offset a host physical address reaches, if it lies in the block at all (20_memory.md R60, R61: every other
part of the host's address space belongs to the platform). -/
def blockOffset? (addr : Nat) : Option Offset :=
  if blockBase ≤ addr ∧ addr < blockBase + 2 ^ 24 then some (BitVec.ofNat 24 (addr - blockBase)) else none

/-- SIN64: NaN when `x` is not finite, else any finite value in [-1, 1] (00_scope.md R14, log entry 8). -/
def sin64 (x : F64) : F64 :=
  if f64IsFinite x then
    let y := Config.sinChoice x
    if f64IsFinite y && f64Le (f64Abs y) f64One then y else f64PosZero
  else f64NaN

/-- TAN64: any finite value above 0 for a finite `x` with 0 < x <= PI64/2, anything elsewhere (00_scope.md R14,
log entry 8). -/
def tan64 (x : F64) : F64 :=
  let y := Config.tanChoice x
  if f64Lt f64PosZero x && f64Le x halfPi64 then
    if f64IsFinite y && f64Lt f64PosZero y then y else f64One
  else y

end Sys2Proof.Machine
end

