-- ==== Sys2Proof/Machine/Operands.lean ====
section
/-! DEFINITION. The operands: the parameter snapshot every rendering command takes (40_render_pipeline.md R111), its checks
and effective values (R112, R113), and the register map with the image of each register (10_state.md R22 to R41). -/

namespace Sys2Proof.Machine

/-! ### The snapshot -/

/-- CTRL.FILT_EN (10_state.md R23). -/
def State.filtEn (s : State) : Bool := s.ctrl.getLsbD 0

/-- CTRL.TRI_FIX (10_state.md R23). -/
def State.triFix (s : State) : Bool := s.ctrl.getLsbD 1

/-- The parameter snapshot P (40_render_pipeline.md R111). -/
structure Params where
  filtEn : Bool
  triFix : Bool
  kind : WaveKind
  amp : F64
  f : F64
  pw : F64
  cutoff : F64
  att : F64
  dec : F64
  sus : F64
  rel : F64
  sr : Nat
  dur : Nat
  deriving DecidableEq, Repr

/-- `Snapshot()` (40_render_pipeline.md R111). -/
def snapshot (s : State) : Params where
  filtEn := s.filtEn
  triFix := s.triFix
  kind := s.wave
  amp := s.amplitude
  f := s.frequencyHz
  pw := s.pulseWidth
  cutoff := s.cutoffHz
  att := s.attackMs
  dec := s.decayMs
  sus := s.sustainLevel
  rel := s.releaseMs
  sr := s.sampleRateHz.toNat
  dur := s.durationMs.toNat

/-- `Valid(P)` (40_render_pipeline.md R112). -/
def Params.valid (P : Params) : Bool :=
  f64IsFinite P.amp && f64IsFinite P.pw && f64IsFinite P.att && f64IsFinite P.dec && f64IsFinite P.rel
    && f64IsFinite P.sus && P.f != f64PosInf

/-- `E.amp` (40_render_pipeline.md R113). -/
def Params.effAmp (P : Params) : F64 := f64Clamp01 P.amp

/-- `E.pw` (40_render_pipeline.md R113). -/
def Params.effPw (P : Params) : F64 := f64Clamp01 P.pw

/-- `E.S` (40_render_pipeline.md R113). -/
def Params.effSus (P : Params) : F64 := f64Clamp01 P.sus

/-- N, the number of samples: the exact rational `sr * dur / 1000` to the nearest integer, ties to even
(40_render_pipeline.md R114). -/
def Params.length (P : Params) : Nat := rheDiv (P.sr * P.dur) 1000

/-! ### The register map -/

/-- The registers of 10_state.md R22. -/
inductive Reg where
  | ctrl
  | wave
  | amplitude
  | frequencyHz
  | pulseWidth
  | cutoffHz
  | attackMs
  | decayMs
  | sustainLevel
  | releaseMs
  | sampleRateHz
  | durationMs
  | cmd
  | status
  | err
  | bank0Len
  | bank1Len
  | filtWn
  | filtB0
  | filtB1
  | filtA1
  | capacity
  deriving DecidableEq, Repr

/-- A register's block offset (10_state.md R22). -/
def Reg.offset : Reg → Nat
  | .ctrl => 0x000
  | .wave => 0x008
  | .amplitude => 0x010
  | .frequencyHz => 0x018
  | .pulseWidth => 0x020
  | .cutoffHz => 0x028
  | .attackMs => 0x030
  | .decayMs => 0x038
  | .sustainLevel => 0x040
  | .releaseMs => 0x048
  | .sampleRateHz => 0x050
  | .durationMs => 0x058
  | .cmd => 0x060
  | .status => 0x068
  | .err => 0x070
  | .bank0Len => 0x078
  | .bank1Len => 0x080
  | .filtWn => 0x088
  | .filtB0 => 0x090
  | .filtB1 => 0x098
  | .filtA1 => 0x0A0
  | .capacity => 0x0A8

/-- The register whose eight bytes hold a block offset, none outside 0x000 to 0x0AF (20_memory.md R61). -/
def regAt? (off : Nat) : Option Reg :=
  match off / 8 with
  | 0 => some .ctrl
  | 1 => some .wave
  | 2 => some .amplitude
  | 3 => some .frequencyHz
  | 4 => some .pulseWidth
  | 5 => some .cutoffHz
  | 6 => some .attackMs
  | 7 => some .decayMs
  | 8 => some .sustainLevel
  | 9 => some .releaseMs
  | 10 => some .sampleRateHz
  | 11 => some .durationMs
  | 12 => some .cmd
  | 13 => some .status
  | 14 => some .err
  | 15 => some .bank0Len
  | 16 => some .bank1Len
  | 17 => some .filtWn
  | 18 => some .filtB0
  | 19 => some .filtB1
  | 20 => some .filtA1
  | 21 => some .capacity
  | _ => none

/-- The code of a waveform kind (30_encoding.md R95). -/
def WaveKind.code : WaveKind → Byte
  | .sine => 0
  | .triangle => 1
  | .sawtooth => 2
  | .square => 3

/-- The kind a KIND code stands for, none for the illegal codes 4 to 255 (10_state.md R24). -/
def waveKind? (c : Byte) : Option WaveKind :=
  match c.toNat with
  | 0 => some .sine
  | 1 => some .triangle
  | 2 => some .sawtooth
  | 3 => some .square
  | _ => none

/-- The 64-bit image of a register as it reads: reserved bits and CMD read 0 (10_state.md R22 to R41). -/
def regImage (s : State) : Reg → Word64
  | .ctrl => s.ctrl.setWidth 64
  | .wave => s.wave.code.setWidth 64
  | .amplitude => s.amplitude
  | .frequencyHz => s.frequencyHz
  | .pulseWidth => s.pulseWidth
  | .cutoffHz => s.cutoffHz
  | .attackMs => s.attackMs
  | .decayMs => s.decayMs
  | .sustainLevel => s.sustainLevel
  | .releaseMs => s.releaseMs
  | .sampleRateHz => s.sampleRateHz.setWidth 64
  | .durationMs => s.durationMs.setWidth 64
  | .cmd => 0
  | .status => statusImage s
  | .err => s.err.setWidth 64
  | .bank0Len => s.bank0Len.setWidth 64
  | .bank1Len => s.bank1Len.setWidth 64
  | .filtWn => s.filtWn
  | .filtB0 => s.filtB0
  | .filtB1 => s.filtB1
  | .filtA1 => s.filtA1
  | .capacity => BitVec.ofNat 64 bufCapacity

end Sys2Proof.Machine
end

