-- ==== Sys2Proof/Machine/Envelope.lean ====
section
/-! DEFINITION. The ADSR envelope (spec/42_envelope.md) and the conversion to 16 bits (40_render_pipeline.md R116, R117). -/

namespace Sys2Proof.Machine

/-- `min(r, SEG_MAX)` as an integer, where `r` is a non-negative integral value or +inf (42_envelope.md R160). A NaN
cannot arise from finite times (log entry 12). -/
def segClamp (r : F64) : Nat :=
  if f64IsFinite r then min (f64Trunc r).toNat segMax else segMax

/-- `Count(ms)` (42_envelope.md R160). -/
def segCount (ms : F64) (sr : Nat) : Nat :=
  let m := if f64Lt ms f64PosZero then f64PosZero else ms
  segClamp (f64Rhe (f64Mul (f64Div m f64Thousand) (f64OfNat sr)))

/-- `Ramp(a, b, L, k)`, both endpoints included, a one-sample ramp holding its start (42_envelope.md R161). -/
def ramp (a b : F64) (L k : Nat) : F64 :=
  if L = 1 then a
  else if k = L - 1 then b
  else f64Add (f64Mul (f64OfNat k) (f64Div (f64Sub b a) (f64OfNat (L - 1)))) a

/-- `Envelope(i, N, A, D, R, S)`: release, then attack, then decay, then sustain (42_envelope.md R163). The comparison
`i >= N - R` of integers is `N <= i + R`. -/
def envelope (i N A D R : Nat) (S : F64) : F64 :=
  if N ≤ i + R then ramp S f64PosZero R (i + R - N)
  else if i < A then ramp f64PosZero f64One A i
  else if i < A + D then ramp f64One S D (i - A)
  else S

/-- `Conv16(v)`: the sample, and whether the NaN latch is set (40_render_pipeline.md R116). -/
def conv16 (v : F64) : Sample × Bool :=
  if f64IsNaN v then (0, true)
  else (BitVec.ofInt 16 (f64Trunc (f64Saturate v f64Min16 f64Max16)), false)

/-- `Conv16((raw * env) * SCALE16)` (42_envelope.md R165, 40_render_pipeline.md R117). -/
def shape16 (raw env : F64) : Sample × Bool := conv16 (f64Mul (f64Mul raw env) scale16)

end Sys2Proof.Machine
end

