-- ==== Sys2Proof/Machine/Filter.lean ====
section
/-! DEFINITION. The single-pole IIR low-pass filter (spec/43_filter.md). -/

namespace Sys2Proof.Machine

/-- What a filtered render derives from its own snapshot (43_filter.md R180 to R184). -/
structure FilterCoeffs where
  wn : F64
  b0 : F64
  b1 : F64
  a1 : F64
  deriving DecidableEq, Repr

/-- The normalized cutoff, clamped to PRED1 at and above 1 (43_filter.md R180, R181). -/
def normalizedCutoff (cutoff : F64) (sr : Nat) : F64 :=
  let wn := f64Div cutoff (f64Mul f64Half (f64OfNat sr))
  if f64Le f64One wn then pred1 else wn

/-- The prewarped analog corner K (43_filter.md R183). -/
def prewarp (wn : F64) : F64 := tan64 (f64Div (f64Mul pi64 wn) f64Two)

/-- The order-1 bilinear low-pass coefficients for K (43_filter.md R184). -/
def coeffsOfCorner (wn K : F64) : FilterCoeffs where
  wn := wn
  b0 := f64Div K (f64Add f64One K)
  b1 := f64Div K (f64Add f64One K)
  a1 := f64Div (f64Sub K f64One) (f64Add K f64One)

/-- `FilterCoefficients(cutoff, sr)`, none for an invalid cutoff (43_filter.md R180 to R184). -/
def filterCoefficients (cutoff : F64) (sr : Nat) : Option FilterCoeffs :=
  let wn := normalizedCutoff cutoff sr
  if f64IsFinite cutoff && f64Lt f64PosZero wn then some (coeffsOfCorner wn (prewarp wn)) else none

/-- One step of the difference equation: `((b0 * x) + (b1 * xp)) - (a1 * yp)` (43_filter.md R185). -/
def filterStep (c : FilterCoeffs) (x xp yp : F64) : F64 :=
  f64Sub (f64Add (f64Mul c.b0 x) (f64Mul c.b1 xp)) (f64Mul c.a1 yp)

/-- The unrounded outputs y[n] from the memory `xp`, `yp` on (43_filter.md R185). -/
def filterFrom (c : FilterCoeffs) : F64 → F64 → List Sample → List F64
  | _, _, [] => []
  | xp, yp, v :: vs =>
    let x := f64OfInt v.toInt
    let y := filterStep c x xp yp
    y :: filterFrom c x y vs

/-- The unrounded outputs y[0..N), with zero initial memory (43_filter.md R185). -/
def filterOut (c : FilterCoeffs) (xs : List Sample) : List F64 := filterFrom c f64PosZero f64PosZero xs

end Sys2Proof.Machine
end

