-- ==== Sys2Proof/Machine/Oscillator.lean ====
section
/-! DEFINITION. The waveform oscillator (spec/41_oscillator.md). Each formula is evaluated in the order R143 to R147 give,
each operation rounded once (00_scope.md R11). -/

namespace Sys2Proof.Machine

/-- The time `t_i = f64(i) / f64(sr)`, from the phase index alone (41_oscillator.md R141). -/
def oscTime (sr i : Nat) : F64 := f64Div (f64OfNat i) (f64OfNat sr)

/-- SINE (41_oscillator.md R143). -/
def oscSine (amp f t : F64) : F64 :=
  f64Mul amp (sin64 (f64Mul (f64Mul (f64Mul f64Two pi64) f) t))

/-- `amp * ((2.0 * ABS(v - 1.0)) - 1.0)`, the shape both triangles share (41_oscillator.md R144, R145). -/
def triangleShape (amp v : F64) : F64 :=
  f64Mul amp (f64Sub (f64Mul f64Two (f64Abs (f64Sub v f64One))) f64One)

/-- TRIANGLE, verbatim: not phase-normalized (41_oscillator.md R144). -/
def oscTriangle (amp f t : F64) : F64 := triangleShape amp (f64Mul (f64Mul f64Two f) t)

/-- TRIANGLE, corrected: the phase is wrapped by FRAC (41_oscillator.md R145). -/
def oscTriangleFixed (amp f t : F64) : F64 := triangleShape amp (f64Mul f64Two (f64Frac (f64Mul f t)))

/-- SAWTOOTH (41_oscillator.md R146). -/
def oscSawtooth (amp f t : F64) : F64 :=
  let p := f64Mul f t
  f64Mul (f64Mul amp f64Two) (f64Sub p (f64Floor (f64Add f64Half p)))

/-- SQUARE (41_oscillator.md R147). -/
def oscSquare (amp f pw t : F64) : F64 :=
  f64Mul amp (f64Mod2 (f64Floor (f64Add (f64Mul (f64Mul f64Two f) t) pw)))

/-- `Oscillator(E, kind, tri_fix, sr, i)`: silence first (41_oscillator.md R148), then one formula by kind (R142). -/
def oscillator (P : Params) (i : Nat) : F64 :=
  if f64Lt f64PosZero P.f then
    match P.kind with
    | .sine => oscSine P.effAmp P.f (oscTime P.sr i)
    | .triangle =>
      if P.triFix then oscTriangleFixed P.effAmp P.f (oscTime P.sr i)
      else oscTriangle P.effAmp P.f (oscTime P.sr i)
    | .sawtooth => oscSawtooth P.effAmp P.f (oscTime P.sr i)
    | .square => oscSquare P.effAmp P.f P.effPw (oscTime P.sr i)
  else f64PosZero

end Sys2Proof.Machine
end

