-- ==== Sys2Proof/Machine/Render.lean ====
section
/-! DEFINITION. The render pipeline (40_render_pipeline.md R110). It is a function of the snapshot alone (R119). -/

namespace Sys2Proof.Machine

/-- What a successful render hands to its commit (40_render_pipeline.md R120). -/
structure Rendered where
  /-- The N samples. -/
  out : List Sample
  /-- The NaN latch. -/
  nan : Bool
  /-- The filter's coefficients, when P.filt_en = 1. -/
  coeffs : Option FilterCoeffs
  deriving DecidableEq, Repr

/-- The envelope-shaped samples s[0..N), each with its NaN latch (40_render_pipeline.md R110). -/
def shapedSamples (P : Params) : List (Sample × Bool) :=
  let N := P.length
  let A := segCount P.att P.sr
  let D := segCount P.dec P.sr
  let R := segCount P.rel P.sr
  (List.range N).map fun i => shape16 (oscillator P i) (envelope i N A D R P.effSus)

/-- The coefficients of this render: none needed with the filter off, an error for an invalid cutoff
(43_filter.md R182, R187). -/
def renderCoeffs (P : Params) : Except CmdError (Option FilterCoeffs) :=
  if P.filtEn then
    match filterCoefficients P.cutoff P.sr with
    | some c => .ok (some c)
    | none => .error .badParam
  else .ok none

/-- The filter stage: each output converted by Conv16, or bypassed (43_filter.md R185 to R187). -/
def filterStage (c : Option FilterCoeffs) (s : List (Sample × Bool)) : List (Sample × Bool) :=
  match c with
  | some c => (filterOut c (s.map Prod.fst)).map conv16
  | none => s.map fun v => (v.1, false)

/-- The samples of a render that has passed its checks (40_render_pipeline.md R110, after the checks). -/
def renderSamples (P : Params) (c : Option FilterCoeffs) : Rendered where
  out := (filterStage c (shapedSamples P)).map Prod.fst
  nan := (shapedSamples P).any Prod.snd || (filterStage c (shapedSamples P)).any Prod.snd
  coeffs := c

/-- `Render` up to its commit: the checks in their order, then the samples (40_render_pipeline.md R110, R121;
60_exceptions.md R235). -/
def render (P : Params) : Except CmdError Rendered :=
  if P.length = 0 then .error .zeroLength
  else if bufCapacity < P.length then .error .overCapacity
  else if P.valid then
    match renderCoeffs P with
    | .ok c => .ok (renderSamples P c)
    | .error e => .error e
  else .error .badParam

end Sys2Proof.Machine
end

