-- ==== Sys2Proof/Machine/Ops.lean ====
section
/-! DEFINITION. The named operations over the sample memory and the status registers, and raising a command error, the only
thing of the kind the block has: it has no exception entry and no return from one (60_exceptions.md R230, R236, R237). -/

namespace Sys2Proof.Machine

/-! ### The sample memory -/

/-- The canonical form: offsets strictly rising. An unlisted offset reads as no value, so no entry can equal what it
reads as (log entry 4). -/
def Memory.wf : Memory → Bool
  | [] => true
  | [_] => true
  | c :: d :: rest => decide (c.1 < d.1) && Memory.wf (d :: rest)

/-- The byte some render has written at a block offset, none if no render has. -/
def memByte? (m : Memory) (a : Nat) : Option Byte :=
  match m with
  | [] => none
  | c :: rest => if c.1 = a then some c.2 else memByte? rest a

/-- The cells of consecutive bytes from an offset on. -/
def cellsFrom (a : Nat) : List Byte → Memory
  | [] => []
  | b :: bs => (a, b) :: cellsFrom (a + 1) bs

/-- Writes consecutive bytes from an offset on, in place of whatever was listed there. -/
def memWrite (m : Memory) (a : Nat) (bs : List Byte) : Memory :=
  m.filter (fun c => decide (c.1 < a)) ++ cellsFrom a bs
    ++ m.filter (fun c => decide (a + bs.length ≤ c.1))

/-- The byte at a block offset of the banks: what a render wrote, else the free draw of U1 (20_memory.md R66). -/
def State.byteAt (s : State) (a : Nat) : Byte :=
  (memByte? s.mem a).getD (Config.unwrittenByte s.drawEpoch a)

/-- `W_b`, where the window of a bank begins (20_memory.md R62). -/
def Bank.base : Bank → Nat
  | .bank0 => 0x400000
  | .bank1 => 0x800000

/-- The block offset of sample word i of a bank (20_memory.md R62). -/
def wordOffset (b : Bank) (i : Nat) : Nat := b.base + 2 * i

/-- `bank[b][i]`: bits 7:0 at the lower byte offset (20_memory.md R68). -/
def State.bankWord (s : State) (b : Bank) (i : Nat) : Sample :=
  s.byteAt (wordOffset b i + 1) ++ s.byteAt (wordOffset b i)

/-- The two bytes of a sample word, lowest offset first (20_memory.md R68). -/
def sampleBytes (v : Sample) : List Byte := [v.setWidth 8, (v >>> 8).setWidth 8]

/-- The bytes of consecutive sample words. -/
def samplesBytes : List Sample → List Byte
  | [] => []
  | v :: vs => sampleBytes v ++ samplesBytes vs

/-- Writes words 0 to n-1 of a bank (40_render_pipeline.md R120). -/
def writeBank (b : Bank) (out : List Sample) (s : State) : State :=
  { s with mem := memWrite s.mem b.base (samplesBytes out) }

/-! ### Bank lengths -/

/-- BANKb_LEN (10_state.md R39). -/
def State.bankLen (s : State) : Bank → BitVec 32
  | .bank0 => s.bank0Len
  | .bank1 => s.bank1Len

/-- `BANKb_LEN <- n` (40_render_pipeline.md R120). -/
def setBankLen (b : Bank) (n : Nat) (s : State) : State :=
  match b with
  | .bank0 => { s with bank0Len := BitVec.ofNat 32 n }
  | .bank1 => { s with bank1Len := BitVec.ofNat 32 n }

/-! ### The commit of a render -/

/-- The FILT registers after a render: its coefficients when it was filtered, else unchanged (10_state.md R40). -/
def setFilt (c : Option FilterCoeffs) (s : State) : State :=
  match c with
  | some c => { s with filtWn := c.wn, filtB0 := c.b0, filtB1 := c.b1, filtA1 := c.a1 }
  | none => s

/-- `Commit` (40_render_pipeline.md R120). -/
def commit (tb : Bank) (r : Rendered) (s : State) : State :=
  let s := writeBank tb r.out s
  let s := setBankLen tb r.out.length s
  let s := { s with lastBank := tb, lastValid := true }
  let s := setFilt r.coeffs s
  if r.nan then setErr nanSampleFlag s else s

/-- The target bank of a rendering command (20_memory.md R70). -/
def targetBank (s : State) : Bank := s.playBank.other

/-- `Render(tb)` on the state: the commit, or the error with nothing written (40_render_pipeline.md R110, R121). -/
def renderInto (tb : Bank) (s : State) : Except CmdError State :=
  match render (snapshot s) with
  | .ok r => .ok (commit tb r s)
  | .error e => .error e

/-! ### The end of a command -/

/-- The epilogue of every command (44_commands.md R201). -/
def epilogue (op : Byte) (code : ResultCode) (s : State) : State :=
  setErr code.errFlag { s with lastOp := op, result := code }

/-- `raise CmdError(e)` in the command whose word has `op` in bits 7:0: RESULT, LAST_OP and one ERR bit, and nothing else
(60_exceptions.md R234). -/
def raiseCmdError (e : CmdError) (op : Byte) (s : State) : State := epilogue op e.result s

/-- Ends a command begun in `s`: the epilogue with OK on what it made of the state, or the error it raised. -/
def finish (op : Byte) (s : State) (r : Except CmdError State) : State :=
  match r with
  | .ok t => epilogue op .ok t
  | .error e => raiseCmdError e op s

end Sys2Proof.Machine
end

