-- ==== Sys2Proof/Machine/Commands.lean ====
section
/-! DEFINITION. The meanings of the five commands (spec/44_commands.md), one definition each. -/

namespace Sys2Proof.Machine

/-- NOP (44_commands.md R202). -/
def execNop (s : State) : Host.Outcome State Fault Refusal :=
  .next (epilogue Instr.nop.opcode .ok s)

/-- RENDER (44_commands.md R203): allowed in both states, ON and PLAY_BANK stay. -/
def execRender (s : State) : Host.Outcome State Fault Refusal :=
  .next (finish Instr.render.opcode s (renderInto (targetBank s) s))

/-- ACTIVATE (44_commands.md R204): BAD_STATE in On; a failed render leaves the block Off. -/
def execActivate (s : State) : Host.Outcome State Fault Refusal :=
  .next (finish Instr.activate.opcode s
    (if s.on then .error .badState
    else
      match renderInto (targetBank s) s with
      | .ok t => .ok { t with playBank := targetBank s, on := true }
      | .error e => .error e))

/-- DEACTIVATE (44_commands.md R205): BAD_STATE in Off. -/
def execDeactivate (s : State) : Host.Outcome State Fault Refusal :=
  .next (finish Instr.deactivate.opcode s
    (if s.on then .ok { s with on := false } else .error .badState))

/-- TICK (44_commands.md R206): BAD_STATE in Off; a failed render leaves the old buffer playing. -/
def execTick (s : State) : Host.Outcome State Fault Refusal :=
  .next (finish Instr.tick.opcode s
    (if s.on then
      match renderInto (targetBank s) s with
      | .ok t => .ok { t with playBank := targetBank s }
      | .error e => .error e
    else .error .badState))

end Sys2Proof.Machine
end

