-- ==== Sys2Proof/Machine/Bus.lean ====
section
/-! DEFINITION. Host accesses (20_memory.md R60 to R69, 10_state.md R46), the playback port (20_memory.md R75, R76) and the
reset (70_reset_and_hazards.md R260 to R262). -/

namespace Sys2Proof.Machine

/-! ### Which accesses are legal (20_memory.md R63) -/

/-- The register a legal register access reaches: 4 or 8 bytes at a multiple of the width, offsets 0x000 to 0x0AF. -/
def accessedReg? (off : Offset) (n : Nat) : Option Reg :=
  if (n = 4 ∨ n = 8) ∧ off.toNat % n = 0 then regAt? off.toNat else none

/-- Whether all `n` bytes at an offset are mapped words of a bank (20_memory.md R62, log entry 17). -/
def inBank (b : Bank) (off n : Nat) : Bool :=
  decide (b.base ≤ off) && decide (off - b.base + n ≤ 2 * bufCapacity)

/-- A legal bank read: 2, 4 or 8 bytes at a multiple of the width, all of them mapped. -/
def legalBankRead (off : Offset) (n : Nat) : Bool :=
  (n == 2 || n == 4 || n == 8) && off.toNat % n == 0 && (inBank .bank0 off.toNat n || inBank .bank1 off.toNat n)

/-! ### Reads (20_memory.md R64) -/

/-- The low `n` bytes set. -/
def byteMask (n : Nat) : Word64 := BitVec.ofNat 64 (2 ^ (8 * n) - 1)

/-- The bit place of an offset's byte in the image of its register (20_memory.md R68). -/
def byteShift (off : Offset) : Nat := 8 * (off.toNat % 8)

/-- The `n` bytes of a register's image from an offset's byte on. -/
def regBytes (s : State) (r : Reg) (off : Offset) (n : Nat) : Word64 :=
  (regImage s r >>> byteShift off) &&& byteMask n

/-- The `n` bytes of the banks from an offset on, little-endian. -/
def bankBytes (s : State) (off : Offset) (n : Nat) : Word64 :=
  wordOfBytes ((List.range n).map fun k => s.byteAt (off.toNat + k))

/-- An illegal access: sets ERR.BAD_ACCESS and changes nothing else (20_memory.md R67). -/
def badAccess (s : State) : State := setErr badAccessFlag s

/-- `MemRead(off, n)`: a legal read changes nothing but the answer; an illegal one returns 0 (20_memory.md R64, R67). -/
def hostRead (off : Offset) (n : Nat) (s : State) : State :=
  match accessedReg? off n with
  | some r => { s with reply := .hostData n (regBytes s r off n) }
  | none =>
    if legalBankRead off n then { s with reply := .hostData n (bankBytes s off n) }
    else { badAccess s with reply := .hostData n 0 }

/-! ### Writes (20_memory.md R65, 10_state.md R46) -/

/-- The written bytes in their place in the register's image, 0 elsewhere. -/
def placedData (off : Offset) (n : Nat) (v : Word64) : Word64 := (v &&& byteMask n) <<< byteShift off

/-- The register's image with the written bytes replaced (10_state.md R46). -/
def mergedImage (old : Word64) (off : Offset) (n : Nat) (v : Word64) : Word64 :=
  (old &&& ~~~(byteMask n <<< byteShift off)) ||| placedData off n v

/-- A merged write to WAVE: a legal KIND is stored, another is refused with ERR.BAD_KIND (10_state.md R24, R46). -/
def writeWave (image : Word64) (s : State) : State :=
  match waveKind? (image.setWidth 8) with
  | some k => { s with wave := k }
  | none => setErr badKindFlag s

/-- How a register other than CMD acts on a write: `image` is the merged image and `data` the written bytes in place
(10_state.md R46). -/
def writeReg (r : Reg) (image data : Word64) (s : State) : State :=
  match r with
  | .ctrl => { s with ctrl := image.setWidth 2 }
  | .wave => writeWave image s
  | .amplitude => { s with amplitude := image }
  | .frequencyHz => { s with frequencyHz := image }
  | .pulseWidth => { s with pulseWidth := image }
  | .cutoffHz => { s with cutoffHz := image }
  | .attackMs => { s with attackMs := image }
  | .decayMs => { s with decayMs := image }
  | .sustainLevel => { s with sustainLevel := image }
  | .releaseMs => { s with releaseMs := image }
  | .sampleRateHz => { s with sampleRateHz := image.setWidth 32 }
  | .durationMs => { s with durationMs := image.setWidth 32 }
  | .err => clearErr (data.setWidth 8) s
  | .cmd => s
  | .status => s
  | .bank0Len => s
  | .bank1Len => s
  | .filtWn => s
  | .filtB0 => s
  | .filtB1 => s
  | .filtA1 => s
  | .capacity => s

/-- The engine executes a delivered command word: the command it decodes to, or ILLEGAL_CMD (44_commands.md R200, R201;
30_encoding.md R92). -/
def runWord (w : Word64) (s : State) : Host.Outcome State Fault Refusal :=
  match decode w with
  | .ok i => exec i s
  | .error _ => .next (raiseCmdError .illegalCmd (opcodeField w) s)

/-- `MemWrite(off, n, v)`. For CMD the bytes that are not written are 0 (10_state.md R34, 30_encoding.md R94). -/
def hostWrite (off : Offset) (n : Nat) (v : Word64) (s : State) : Host.Outcome State Fault Refusal :=
  match accessedReg? off n with
  | some .cmd => runWord (placedData off n v) s
  | some r => .next (writeReg r (mergedImage (regImage s r) off n v) (placedData off n v) s)
  | none => .next (badAccess s)

/-! ### The playback port (20_memory.md R75, R76) -/

/-- PLAY_VALID. -/
def State.playValid (s : State) : Bool := s.on

/-- PLAY_LEN. -/
def State.playLen (s : State) : Nat := (s.bankLen s.playBank).toNat

/-- Whether a sink read is defined: the block is On, the sink reads the playback bank, and the index is below PLAY_LEN
(20_memory.md R76). -/
def sinkReadDefined (b : Bank) (i : Nat) (s : State) : Bool :=
  s.playValid && b == s.playBank && decide (i < s.playLen)

/-- `SinkRead(i)` by a sink that holds `b` to be the playback bank: the sample, or any value, a fresh one each time
(20_memory.md R76, log entry 5). -/
def sinkRead (b : Bank) (i : Nat) (s : State) : State :=
  if sinkReadDefined b i s then { s with reply := .sinkData (s.bankWord b i) }
  else { s with reply := .sinkData (Config.sinkRaceSample s.sinkDraws), sinkDraws := s.sinkDraws + 1 }

/-! ### Reset -/

/-- The platform's reset: every register as 70_reset_and_hazards.md R261 says, and the bank words drawn afresh. The world
outside, its pending events among it, is not the block's to reset (log entry 13). -/
def platformReset (s : State) : State :=
  { State.reset with
    inbox := s.inbox
    reply := .resetDone
    drawEpoch := s.drawEpoch + 1
    sinkDraws := s.sinkDraws }

/-! ### One event -/

/-- What one event does to the block. -/
def deliver (e : Event) (s : State) : Host.Outcome State Fault Refusal :=
  match e with
  | .hostRead off n => .next (hostRead off n s)
  | .hostWrite off n v => hostWrite off n v { s with reply := .writeDone }
  | .sinkRead b i => .next (sinkRead b i s)
  | .reset => .next (platformReset s)

/-- The state with the command word of `w` about to be written to CMD by one 64-bit write (30_encoding.md R99). -/
def withCommandWord (w : Word64) (s : State) : State := { s with inbox := .hostWrite 0x060 8 w :: s.inbox }

end Sys2Proof.Machine
end

