-- ==== Sys2Proof/Machine/Step.lean ====
section
/-! DEFINITION. One step: the oldest pending event, or idling (log entries 1 and 3). -/

namespace Sys2Proof.Machine

/-- One step of the machine. With no event pending the block is idle and holds all its state (60_exceptions.md R245). -/
def step (s : State) : Host.Outcome State Fault Refusal :=
  match s.inbox with
  | [] => .next s
  | e :: rest => deliver e { s with inbox := rest }

/-- The state whose next step executes the command word `w`, given in `nbits` bits with zeros above: the host's 64-bit
write of it to CMD is the next event (log entry 1). -/
def State.withFetchWord (s : State) (nbits w : Nat) : State :=
  withCommandWord (BitVec.ofNat 64 (w % 2 ^ nbits)) s

end Sys2Proof.Machine
end

