-- ==== Sys2Proof/Safety.lean ====
section
/-! DEFINITION. The terms the statements are in: which accesses are legal, when a render succeeds and what its samples are,
index by index, and the invariants of the machine. They are written from the rules, apart from the functions the machine
computes with. -/

namespace Sys2Proof.Machine

/-! ### Inputs -/

/-- The state with one more event, the next to happen. -/
def State.withEvent (s : State) (e : Event) : State := { s with inbox := e :: s.inbox }

/-- A legal access to the register window (20_memory.md R63, R61). -/
def RegisterAccess (off : Offset) (n : Nat) : Prop :=
  (n = 4 ∨ n = 8) ∧ off.toNat % n = 0 ∧ off.toNat < 0x0B0

/-- A legal access to the window of a bank: every byte of it a mapped byte (20_memory.md R62, R63). -/
def BankAccess (b : Bank) (off : Offset) (n : Nat) : Prop :=
  (n = 2 ∨ n = 4 ∨ n = 8) ∧ off.toNat % n = 0 ∧
    ∀ k, k < n → b.base ≤ off.toNat + k ∧ off.toNat + k < b.base + 2 * bufCapacity

/-- A legal host read (20_memory.md R63). -/
def LegalRead (off : Offset) (n : Nat) : Prop := RegisterAccess off n ∨ ∃ b, BankAccess b off n

/-- The eight registers that hold one binary64 value each and are readable and writable (10_state.md R25). -/
def realRegs : List Reg :=
  [.amplitude, .frequencyHz, .pulseWidth, .cutoffHz, .attackMs, .decayMs, .sustainLevel, .releaseMs]

/-- The registers that ignore writes (10_state.md R46). -/
def readOnlyRegs : List Reg :=
  [.status, .bank0Len, .bank1Len, .filtWn, .filtB0, .filtB1, .filtA1, .capacity]

/-- The two states hold the same parameter registers, CTRL, WAVE and the ten others (10_state.md R20). -/
structure SameParameters (s t : State) : Prop where
  ctrl : t.ctrl = s.ctrl
  wave : t.wave = s.wave
  amplitude : t.amplitude = s.amplitude
  frequencyHz : t.frequencyHz = s.frequencyHz
  pulseWidth : t.pulseWidth = s.pulseWidth
  cutoffHz : t.cutoffHz = s.cutoffHz
  attackMs : t.attackMs = s.attackMs
  decayMs : t.decayMs = s.decayMs
  sustainLevel : t.sustainLevel = s.sustainLevel
  releaseMs : t.releaseMs = s.releaseMs
  sampleRateHz : t.sampleRateHz = s.sampleRateHz
  durationMs : t.durationMs = s.durationMs

/-- The two states agree on what stands outside the block: the events to come and the answer to the last one. -/
structure SameOutside (s t : State) : Prop where
  inbox : t.inbox = s.inbox
  reply : t.reply = s.reply
  drawEpoch : t.drawEpoch = s.drawEpoch
  sinkDraws : t.sinkDraws = s.sinkDraws

/-! ### When a render succeeds -/

/-- `Valid(P)`, condition by condition (40_render_pipeline.md R112). -/
structure ValidParams (P : Params) : Prop where
  amp : f64IsFinite P.amp = true
  pw : f64IsFinite P.pw = true
  att : f64IsFinite P.att = true
  dec : f64IsFinite P.dec = true
  rel : f64IsFinite P.rel = true
  sus : f64IsFinite P.sus = true
  freq : P.f ≠ 0x7FF0000000000000#64

/-- The cutoff check of a filtered render (43_filter.md R182). -/
def ValidCutoff (P : Params) : Prop :=
  P.filtEn = true →
    f64IsFinite P.cutoff = true ∧ f64Lt f64PosZero (normalizedCutoff P.cutoff P.sr) = true

/-- Every check of a render passes (40_render_pipeline.md R110). -/
structure Renderable (P : Params) : Prop where
  nonempty : P.length ≠ 0
  fits : P.length ≤ bufCapacity
  valid : ValidParams P
  cutoff : ValidCutoff P

/-- The render raises `CmdError(e)`: the first check that fails, in the order of 60_exceptions.md R235. -/
inductive RenderFails (P : Params) : CmdError → Prop where
  | zeroLength : P.length = 0 → RenderFails P .zeroLength
  | overCapacity : P.length ≠ 0 → bufCapacity < P.length → RenderFails P .overCapacity
  | invalid : P.length ≠ 0 → P.length ≤ bufCapacity → ¬ ValidParams P → RenderFails P .badParam
  | cutoff : P.length ≠ 0 → P.length ≤ bufCapacity → ValidParams P → ¬ ValidCutoff P → RenderFails P .badParam

/-! ### The samples of a render, index by index -/

/-- `(raw * env) * SCALE16` at index i, before its conversion, the sustain level clamped (42_envelope.md R165,
40_render_pipeline.md R113, R117). -/
def shapedValue (P : Params) (i : Nat) : F64 :=
  f64Mul
    (f64Mul (oscillator P i)
      (envelope i P.length (segCount P.att P.sr) (segCount P.dec P.sr) (segCount P.rel P.sr) (f64Clamp01 P.sus)))
    0x40DFFFC000000000#64

/-- `f64(s[i])`, the filter's input at index i (43_filter.md R185). -/
def filterInput (P : Params) (i : Nat) : F64 := f64OfInt (conv16 (shapedValue P i)).1.toInt

/-- The prewarped analog corner `TAN64((PI64 * wn) / 2.0)` (43_filter.md R183). -/
def cornerK (wn : F64) : F64 := tan64 (f64Div (f64Mul 0x400921FB54442D18#64 wn) 0x4000000000000000#64)

/-- The coefficients a filtered render derives: `b0 = b1 = K / (1.0 + K)`, `a1 = (K - 1.0) / (K + 1.0)` (43_filter.md
R180 to R184). -/
def derivedCoeffs (P : Params) : FilterCoeffs :=
  let wn := normalizedCutoff P.cutoff P.sr
  let K := cornerK wn
  let one := 0x3FF0000000000000#64
  { wn := wn
    b0 := f64Div K (f64Add one K)
    b1 := f64Div K (f64Add one K)
    a1 := f64Div (f64Sub K one) (f64Add K one) }

/-- `y[n]`, the unrounded filter output, by the difference equation with x[-1] = y[-1] = +0.0 (43_filter.md R185). -/
def filterValue (P : Params) : Nat → F64
  | 0 => f64Sub (f64Add (f64Mul (derivedCoeffs P).b0 (filterInput P 0)) (f64Mul (derivedCoeffs P).b1 f64PosZero))
      (f64Mul (derivedCoeffs P).a1 f64PosZero)
  | n + 1 => f64Sub
      (f64Add (f64Mul (derivedCoeffs P).b0 (filterInput P (n + 1))) (f64Mul (derivedCoeffs P).b1 (filterInput P n)))
      (f64Mul (derivedCoeffs P).a1 (filterValue P n))

/-- The value whose conversion is sample i of the buffer (43_filter.md R186, R187). -/
def outputValue (P : Params) (i : Nat) : F64 := if P.filtEn then filterValue P i else shapedValue P i

/-- Sample i of the buffer. -/
def outputSample (P : Params) (i : Nat) : Sample := (conv16 (outputValue P i)).1

/-- Conv16 meets a NaN in this render (40_render_pipeline.md R116). -/
def MeetsNaN (P : Params) : Prop :=
  ∃ i, i < P.length ∧ (f64IsNaN (shapedValue P i) = true ∨ f64IsNaN (outputValue P i) = true)

/-- What a successful rendering command that begins in `s` and renders into `tb` has written when it ends in `t`: the
commit of 40_render_pipeline.md R120, and what it leaves as it was. STATUS.ON, PLAY_BANK, RESULT and LAST_OP are each
command's own. -/
structure RenderedInto (tb : Bank) (s t : State) : Prop where
  /-- The N words of the target bank. -/
  words : ∀ i, i < (snapshot s).length → t.bankWord tb i = outputSample (snapshot s) i
  /-- No other byte of memory. -/
  others : ∀ a, ¬ (tb.base ≤ a ∧ a < tb.base + 2 * (snapshot s).length) →
    memByte? t.mem a = memByte? s.mem a ∧ t.byteAt a = s.byteAt a
  length : (t.bankLen tb).toNat = (snapshot s).length
  otherLength : t.bankLen tb.other = s.bankLen tb.other
  lastBank : t.lastBank = tb
  lastValid : t.lastValid = true
  filtered : (snapshot s).filtEn = true →
    t.filtWn = (derivedCoeffs (snapshot s)).wn ∧ t.filtB0 = (derivedCoeffs (snapshot s)).b0 ∧
      t.filtB1 = (derivedCoeffs (snapshot s)).b1 ∧ t.filtA1 = (derivedCoeffs (snapshot s)).a1
  bypassed : (snapshot s).filtEn = false →
    t.filtWn = s.filtWn ∧ t.filtB0 = s.filtB0 ∧ t.filtB1 = s.filtB1 ∧ t.filtA1 = s.filtA1
  nanSample : MeetsNaN (snapshot s) → t.err = s.err ||| 0x40#8
  noNan : ¬ MeetsNaN (snapshot s) → t.err = s.err
  params : SameParameters s t
  outside : SameOutside s t

/-! ### Invariants -/

/-- What every step keeps: the memory is canonical and lies in the mapped banks, the lengths fit, every word below a
bank's length has been written (20_memory.md R66), a bank named by LAST_BANK after a render or by PLAY_BANK while On
holds a buffer (10_state.md R35, R36), and before the first render the block is as reset left it (R261). -/
structure Inv (s : State) : Prop where
  canonical : Memory.wf s.mem = true
  mapped : ∀ c ∈ s.mem, ∃ b : Bank, b.base ≤ c.1 ∧ c.1 < b.base + 2 * bufCapacity
  lengthFits : ∀ b, (s.bankLen b).toNat ≤ bufCapacity
  written : ∀ b k, k < 2 * (s.bankLen b).toNat → (memByte? s.mem (b.base + k)).isSome = true
  lastRendered : s.lastValid = true → 0 < (s.bankLen s.lastBank).toNat
  playing : s.on = true → 0 < (s.bankLen s.playBank).toNat
  nothingRendered : s.lastValid = false →
    s.mem = [] ∧ s.bank0Len = 0 ∧ s.bank1Len = 0 ∧ s.on = false ∧ s.playBank = .bank0 ∧ s.lastBank = .bank0 ∧
      s.filtWn = 0 ∧ s.filtB0 = 0 ∧ s.filtB1 = 0 ∧ s.filtA1 = 0

/-- The FILT registers hold finite values, b1 the same as b0 (43_filter.md R184, 93_implementation_defined.md U12). -/
structure FiltFinite (s : State) : Prop where
  wn : f64IsFinite s.filtWn = true
  b0 : f64IsFinite s.filtB0 = true
  b1 : s.filtB1 = s.filtB0
  a1 : f64IsFinite s.filtA1 = true

/-- An event that leaves the playback of the block alone: no reset, and no legal CMD write that delivers TICK or
DEACTIVATE (20_memory.md R76). -/
def KeepsPlaying : Event → Prop
  | .reset => False
  | .hostWrite off n v =>
    RegisterAccess off n → off.toNat / 8 = 0x060 / 8 →
      decode (placedData off n v) ≠ .ok .tick ∧ decode (placedData off n v) ≠ .ok .deactivate
  | .hostRead _ _ => True
  | .sinkRead _ _ => True

end Sys2Proof.Machine
end

