-- ==== Sys2Proof/Certificates/Slice0/Obligations.lean ====
section
/-! DEFINITION. The statements, each a formal reading of the rules of spec/ its docstring names. -/

open Sys2Proof Sys2Proof.Machine

/-! ### Encoding (30_encoding.md) -/

/-- R90, R92: a word decodes to a command exactly when it is that command's encoding. -/
def Obligations.WordDecodesIffItIsTheEncoding : Prop :=
  ∀ (w : Word64) (i : Instr), decode w = .ok i ↔ w = encode i

/-- R90, R92, R68: of all byte sequences, the decoder reads a command from exactly the eight little-endian bytes of its
encoding, and from those it reads that command: no bit of an encoding is dropped. -/
def Obligations.BytesDecodeIffTheyAreTheEncoding : Prop :=
  ∀ (bs : List Byte) (i : Instr), i.wellFormed = true → (decodeBytes bs = .ok i ↔ bs = encodeBytes i)

/-- R91, R93: words written out from the opcode map, and the reserved words of the vectors V-CMD-16 to V-CMD-19. -/
def Obligations.OpcodeMapWordsDecode : Prop :=
  decode 0x0000000000000000#64 = .ok .nop ∧ decode 0x0000000000000001#64 = .ok .render ∧
    decode 0x0000000000000002#64 = .ok .activate ∧ decode 0x0000000000000003#64 = .ok .deactivate ∧
    decode 0x0000000000000004#64 = .ok .tick ∧
    (∀ i, decode 0x0000000000000105#64 ≠ .ok i) ∧ (∀ i, decode 0x0000000000010002#64 ≠ .ok i) ∧
    (∀ i, decode 0x00000000000000FF#64 ≠ .ok i) ∧ (∀ i, decode 0x0000000100000000#64 ≠ .ok i)

/-! ### A step -/

/-- R200, R65: when the host's 64-bit write to CMD delivers a word that decodes to a well-formed command, the step is
`exec` of that command on the state without that event, the write's completion being the answer on the bus. -/
def Obligations.StepRunsTheDecodedCommand : Prop :=
  ∀ (s : State) (w : Word64) (i : Instr) (rest : List Event),
    s.inbox = .hostWrite 0x060 8 w :: rest → decode w = .ok i → i.wellFormed = true →
      step s = exec i { s with inbox := rest, reply := .writeDone }

/-- The model's own form (log entry 1): the state that places a command word where the next step fetches it steps to
`exec` of the command that word encodes. -/
def Obligations.FetchedWordIsTheNextCommand : Prop :=
  ∀ (s : State) (i : Instr),
    step (s.withFetchWord 64 (encode i).toNat) = exec i { s with reply := .writeDone }

/-- R245 and log entry 3: with no event pending the block is idle and holds all its state. -/
def Obligations.IdleStepHoldsAllState : Prop :=
  ∀ s : State, s.inbox = [] → step s = .next s

/-- R92: a word is legal iff bits 63:8 are zero and bits 7:0 are 0x00 to 0x04; a legal word is executed as its command,
and an illegal one only reports ILLEGAL_CMD. -/
def Obligations.LegalWordsRunIllegalWordsReport : Prop :=
  ∀ (s : State) (w : Word64),
    (w.extractLsb' 8 56 = 0 ∧ (w.extractLsb' 0 8).toNat ≤ 4 →
      ∃ i : Instr, i.opcode = w.extractLsb' 0 8 ∧
        step (s.withEvent (.hostWrite 0x060 8 w)) = exec i { s with reply := .writeDone }) ∧
    (¬ (w.extractLsb' 8 56 = 0 ∧ (w.extractLsb' 0 8).toNat ≤ 4) →
      step (s.withEvent (.hostWrite 0x060 8 w)) =
        .next { s with
          reply := .writeDone
          result := .illegalCmd
          lastOp := w.extractLsb' 0 8
          err := s.err ||| 0x10#8 })

/-- R94: how a bus write to CMD forms the command word; any other write at offsets 0x060 to 0x067 is an illegal access
and delivers no word. -/
def Obligations.BusWritesFormTheCommandWord : Prop :=
  ∀ (s : State) (v : Word64),
    step (s.withEvent (.hostWrite 0x060 8 v)) = runWord v { s with reply := .writeDone } ∧
    step (s.withEvent (.hostWrite 0x060 4 v)) =
      runWord ((v.extractLsb' 0 32).setWidth 64) { s with reply := .writeDone } ∧
    step (s.withEvent (.hostWrite 0x064 4 v)) =
      runWord ((v.extractLsb' 0 32).setWidth 64 <<< 32) { s with reply := .writeDone } ∧
    (v.extractLsb' 0 32 = 0 →
      step (s.withEvent (.hostWrite 0x064 4 v)) = exec .nop { s with reply := .writeDone }) ∧
    (v.extractLsb' 0 32 ≠ 0 →
      step (s.withEvent (.hostWrite 0x064 4 v)) =
        .next { s with reply := .writeDone, result := .illegalCmd, lastOp := 0, err := s.err ||| 0x10#8 }) ∧
    ∀ (off : Offset) (n : Nat), 0x060 ≤ off.toNat → off.toNat < 0x068 →
      ¬ (off = 0x060 ∧ (n = 4 ∨ n = 8)) → ¬ (off = 0x064 ∧ n = 4) →
        step (s.withEvent (.hostWrite off n v)) = .next { s with reply := .writeDone, err := s.err ||| 0x80#8 }

/-! ### Register accesses (10_state.md, 20_memory.md) -/

/-- R25, R46: each binary64 register stores a 64-bit write whole, a 32-bit write into the half it covers, the other
half kept, and no other register, no bank and no event to come changes. -/
def Obligations.RealRegisterWritesMerge : Prop :=
  ∀ (s : State) (r : Reg) (v : Word64), r ∈ realRegs →
    let full := (BitVec.ofNat 24 r.offset : Offset)
    let upper := (BitVec.ofNat 24 (r.offset + 4) : Offset)
    let written (off : Offset) (n : Nat) (image : Word64) : Prop :=
      ∃ t, step (s.withEvent (.hostWrite off n v)) = .next t ∧ regImage t r = image ∧
        (∀ r', r' ≠ r → regImage t r' = regImage s r') ∧ t.mem = s.mem ∧ t.inbox = s.inbox ∧
        t.reply = .writeDone ∧ t.drawEpoch = s.drawEpoch ∧ t.sinkDraws = s.sinkDraws
    written full 8 v ∧
    written full 4 ((regImage s r).extractLsb' 32 32 ++ v.extractLsb' 0 32) ∧
    written upper 4 (v.extractLsb' 0 32 ++ (regImage s r).extractLsb' 0 32)

/-- R23, R32, R33, R46: CTRL stores bits 1:0 and SAMPLE_RATE_HZ and DURATION_MS store bits 31:0 of a write; a write to
their upper halves changes nothing. -/
def Obligations.NarrowRegisterWritesKeepTheirBits : Prop :=
  ∀ (s : State) (v : Word64) (n : Nat), n = 4 ∨ n = 8 →
    step (s.withEvent (.hostWrite 0x000 n v)) = .next { s with reply := .writeDone, ctrl := v.extractLsb' 0 2 } ∧
    step (s.withEvent (.hostWrite 0x050 n v)) =
      .next { s with reply := .writeDone, sampleRateHz := v.extractLsb' 0 32 } ∧
    step (s.withEvent (.hostWrite 0x058 n v)) =
      .next { s with reply := .writeDone, durationMs := v.extractLsb' 0 32 } ∧
    step (s.withEvent (.hostWrite 0x004 4 v)) = .next { s with reply := .writeDone } ∧
    step (s.withEvent (.hostWrite 0x054 4 v)) = .next { s with reply := .writeDone } ∧
    step (s.withEvent (.hostWrite 0x05C 4 v)) = .next { s with reply := .writeDone }

/-- R24: the KIND codes and the reset value; a write to WAVE stores a KIND of 0 to 3, refuses a KIND of 4 to 255 with
ERR.BAD_KIND and WAVE unchanged, ignores bits 63:8, and WAVE reads as the KIND alone. -/
def Obligations.WaveWriteStoresOrRefuses : Prop :=
  (WaveKind.sine.code = 0 ∧ WaveKind.triangle.code = 1 ∧ WaveKind.sawtooth.code = 2 ∧ WaveKind.square.code = 3 ∧
    State.reset.wave = .sine) ∧
  ∀ (s : State) (v : Word64) (n : Nat), n = 4 ∨ n = 8 →
    (∀ k : WaveKind, v.extractLsb' 0 8 = k.code →
      step (s.withEvent (.hostWrite 0x008 n v)) = .next { s with reply := .writeDone, wave := k }) ∧
    (3 < (v.extractLsb' 0 8).toNat →
      step (s.withEvent (.hostWrite 0x008 n v)) =
        .next { s with reply := .writeDone, err := s.err ||| 0x20#8 }) ∧
    step (s.withEvent (.hostWrite 0x00C 4 v)) = .next { s with reply := .writeDone } ∧
    regImage s .wave = s.wave.code.setWidth 64 ∧ (regImage s .wave).toNat ≤ 3

/-- R38, R46: a host write clears the ERR flags whose bits are 1 in the written bytes; bytes that are not written count
as 0; no other event but a reset ever clears a flag. -/
def Obligations.ErrFlagsAreStickyAndWriteOneToClear : Prop :=
  (∀ (s : State) (v : Word64) (n : Nat), n = 4 ∨ n = 8 →
    step (s.withEvent (.hostWrite 0x070 n v)) =
      .next { s with reply := .writeDone, err := s.err &&& ~~~(v.extractLsb' 0 8) } ∧
    step (s.withEvent (.hostWrite 0x074 4 v)) = .next { s with reply := .writeDone }) ∧
  ∀ (s t : State) (e : Event), step (s.withEvent e) = .next t → e ≠ .reset →
    (∀ off n v, e = .hostWrite off n v → RegisterAccess off n → off.toNat / 8 ≠ 0x070 / 8) →
      ∀ b : Nat, s.err.getLsbD b = true → t.err.getLsbD b = true

/-- R235, last sentence: every host access sets at most one ERR bit. -/
def Obligations.HostAccessSetsAtMostOneErrBit : Prop :=
  ∀ (s t : State) (e : Event), step (s.withEvent e) = .next t →
    (∃ off n, e = .hostRead off n) ∨ (∃ off n v, e = .hostWrite off n v) →
      ∃ b : Nat, ∀ b' : Nat, b' ≠ b → t.err.getLsbD b' = true → s.err.getLsbD b' = true

/-- R46, R22: the read-only registers ignore every legal write, and no flag is set. -/
def Obligations.ReadOnlyRegistersIgnoreWrites : Prop :=
  ∀ (s : State) (r : Reg) (off : Offset) (n : Nat) (v : Word64), r ∈ readOnlyRegs → RegisterAccess off n →
    off.toNat / 8 = r.offset / 8 → step (s.withEvent (.hostWrite off n v)) = .next { s with reply := .writeDone }

/-- R67, R63, R62: an illegal read returns 0, an illegal write does nothing, both set ERR.BAD_ACCESS and change nothing
else; an illegal write to CMD executes no command. That a bank read which begins in mapped words and ends past them is
illegal as a whole, as `LegalRead` has it, is the model's choice (log entry 17), not R67's words. -/
def Obligations.IllegalAccessOnlySetsBadAccess : Prop :=
  ∀ (s : State) (off : Offset) (n : Nat) (v : Word64),
    (¬ LegalRead off n →
      step (s.withEvent (.hostRead off n)) = .next { s with reply := .hostData n 0, err := s.err ||| 0x80#8 }) ∧
    (¬ RegisterAccess off n →
      step (s.withEvent (.hostWrite off n v)) = .next { s with reply := .writeDone, err := s.err ||| 0x80#8 })

/-- R22 to R25, R32 to R34, R38 to R40: the registers at their offsets, each reading as the field that holds it, zero in its
other bits, CMD as 0, and BANKb_LEN the length of bank b (the bits of STATUS are written out in
StatusFieldsStandAtTheirBits, the value of CAPACITY in CapacityReadsTheParameter). R64: a legal read answers with the
bytes of the register's image, or of the bank, and changes nothing. -/
def Obligations.LegalReadAnswersWithoutSideEffect : Prop :=
  (∀ s : State,
    let registers : List (Reg × Nat × Word64) :=
      [(.ctrl, 0x000, s.ctrl.setWidth 64), (.wave, 0x008, s.wave.code.setWidth 64), (.amplitude, 0x010, s.amplitude),
        (.frequencyHz, 0x018, s.frequencyHz), (.pulseWidth, 0x020, s.pulseWidth), (.cutoffHz, 0x028, s.cutoffHz),
        (.attackMs, 0x030, s.attackMs), (.decayMs, 0x038, s.decayMs), (.sustainLevel, 0x040, s.sustainLevel),
        (.releaseMs, 0x048, s.releaseMs), (.sampleRateHz, 0x050, s.sampleRateHz.setWidth 64),
        (.durationMs, 0x058, s.durationMs.setWidth 64), (.cmd, 0x060, 0), (.status, 0x068, regImage s .status),
        (.err, 0x070, s.err.setWidth 64), (.bank0Len, 0x078, s.bank0Len.setWidth 64),
        (.bank1Len, 0x080, s.bank1Len.setWidth 64), (.filtWn, 0x088, s.filtWn), (.filtB0, 0x090, s.filtB0),
        (.filtB1, 0x098, s.filtB1), (.filtA1, 0x0A0, s.filtA1), (.capacity, 0x0A8, BitVec.ofNat 64 bufCapacity)]
    ∀ e ∈ registers, e.1.offset = e.2.1 ∧ regImage s e.1 = e.2.2 ∧
      step (s.withEvent (.hostRead (BitVec.ofNat 24 e.2.1) 8)) = .next { s with reply := .hostData 8 e.2.2 }) ∧
  (∀ s : State, s.bankLen .bank0 = s.bank0Len ∧ s.bankLen .bank1 = s.bank1Len) ∧
  ∀ (s : State) (off : Offset) (n : Nat),
    (∀ r : Reg, RegisterAccess off n → off.toNat / 8 = r.offset / 8 →
      ∃ v : Word64, step (s.withEvent (.hostRead off n)) = .next { s with reply := .hostData n v } ∧
        v.toNat = (regImage s r).toNat / 2 ^ (8 * (off.toNat - r.offset)) % 2 ^ (8 * n)) ∧
    (∀ b : Bank, BankAccess b off n →
      ∃ v : Word64, step (s.withEvent (.hostRead off n)) = .next { s with reply := .hostData n v } ∧
        v.toNat < 2 ^ (8 * n) ∧ ∀ k, k < n → v.extractLsb' (8 * k) 8 = s.byteAt (off.toNat + k))

/-- R62, R68: word j of bank 0 stands at 0x400000 + 2j and of bank 1 at 0x800000 + 2j, and a bank read at word index j
returns word j + k in bits 16k+15 to 16k, for reads of 2, 4 and 8 bytes. -/
def Obligations.BankReadsAreLittleEndianWords : Prop :=
  (Bank.bank0.base = 0x400000 ∧ Bank.bank1.base = 0x800000) ∧
  ∀ (s : State) (b : Bank) (j m : Nat), m = 1 ∨ m = 2 ∨ m = 4 → j % m = 0 → j + m ≤ bufCapacity →
    ∃ v : Word64,
      step (s.withEvent (.hostRead (BitVec.ofNat 24 (b.base + 2 * j)) (2 * m))) =
        .next { s with reply := .hostData (2 * m) v } ∧
      ∀ k, k < m → v.extractLsb' (16 * k) 16 = s.bankWord b (j + k)

/-- R35, R70, R96: the fields of STATUS stand at their bits, a bank as its number and RESULT as its code, and its reserved
bits read 0; bank 1 - b is the other bank. -/
def Obligations.StatusFieldsStandAtTheirBits : Prop :=
  (Bank.bank0.bit = 0 ∧ Bank.bank1.bit = 1 ∧ Bank.bank0.other = .bank1 ∧ Bank.bank1.other = .bank0 ∧
    ResultCode.ok.code = 0 ∧ ResultCode.zeroLength.code = 1 ∧ ResultCode.overCapacity.code = 2 ∧
    ResultCode.badParam.code = 3 ∧ ResultCode.badState.code = 4 ∧ ResultCode.illegalCmd.code = 5) ∧
  ∀ s : State,
    (regImage s .status).getLsbD 0 = s.on ∧
    (regImage s .status).extractLsb' 1 1 = s.playBank.bit ∧
    (regImage s .status).extractLsb' 2 1 = s.lastBank.bit ∧
    (regImage s .status).getLsbD 3 = s.lastValid ∧
    (regImage s .status).extractLsb' 4 4 = 0 ∧
    (regImage s .status).extractLsb' 8 4 = s.result.code ∧
    (regImage s .status).extractLsb' 12 4 = 0 ∧
    (regImage s .status).extractLsb' 16 8 = s.lastOp ∧
    (regImage s .status).extractLsb' 24 40 = 0

/-- R261: after a reset every register reads 0 but CAPACITY, the block is Off, and every bank byte is the free draw of
log entry 4; the same of the state the machine starts in. -/
def Obligations.ResetLeavesTheResetValues : Prop :=
  (∀ s : State, ∃ t, step (s.withEvent .reset) = .next t ∧ t.inbox = s.inbox ∧
    (∀ r, r ≠ .capacity → regImage t r = 0) ∧ t.playValid = false ∧
    ∀ a, t.byteAt a = Config.unwrittenByte (s.drawEpoch + 1) a) ∧
  (∀ r, r ≠ .capacity → regImage State.reset r = 0) ∧ State.reset.playValid = false ∧ State.reset.mem = [] ∧
  ∀ s : State, regImage s .capacity = BitVec.ofNat 64 bufCapacity

/-- R41, R6: CAPACITY reads BUF_CAPACITY in bits 31:0 and 0 above, in every state, and BUF_CAPACITY is between 48000 and
2^21. -/
def Obligations.CapacityReadsTheParameter : Prop :=
  ∀ s : State, (regImage s .capacity).toNat = bufCapacity ∧ (regImage s .capacity).extractLsb' 32 32 = 0 ∧
    48000 ≤ bufCapacity ∧ bufCapacity ≤ 2 ^ 21

/-- R60, R6: block offset `off` is the host address BLOCK_BASE + off, other addresses reach no offset, and BLOCK_BASE is
a multiple of 2^24. -/
def Obligations.HostAddressesMapToOffsets : Prop :=
  (∀ off : Offset, hostAddress off = blockBase + off.toNat ∧ blockOffset? (hostAddress off) = some off) ∧
  (∀ a, (∀ off : Offset, a ≠ blockBase + off.toNat) → blockOffset? a = none) ∧
  (∀ a off, blockOffset? a = some off → hostAddress off = a) ∧ 2 ^ 24 ∣ blockBase

/-! ### Commands (44_commands.md) -/

/-- R202: NOP sets RESULT to OK and LAST_OP to 0x00, in both states, and changes nothing else. -/
def Obligations.NopWritesOnlyResultAndLastOp : Prop :=
  ∀ s : State, exec .nop s = .next { s with result := .ok, lastOp := 0x00#8 }

/-- R203, R70, R110, R120: where every check passes, RENDER completes in both states: it has rendered into the bank that
is not PLAY_BANK, sample by sample as the pipeline computes it, ON and PLAY_BANK are unchanged, RESULT is OK and LAST_OP
is 0x01. Where a check fails it writes RESULT, LAST_OP and one ERR bit and nothing else. -/
def Obligations.RenderFillsTheNonPlayingBank : Prop :=
  ∀ s : State,
    (Renderable (snapshot s) →
      ∃ t, exec .render s = .next t ∧ RenderedInto s.playBank.other s t ∧ t.on = s.on ∧ t.playBank = s.playBank ∧
        t.result = .ok ∧ t.lastOp = 0x01#8) ∧
    ∀ e, RenderFails (snapshot s) e →
      exec .render s = .next { s with result := e.result, lastOp := 0x01#8, err := s.err ||| e.result.errFlag }

/-- R204: in Off, where every check of the render passes, ACTIVATE completes with the rendered bank playing; in Off, a
failing render leaves the block Off with nothing else changed; in On it is refused with BAD_STATE. -/
def Obligations.ActivateRendersThenTurnsOn : Prop :=
  ∀ s : State,
    (s.on = false → Renderable (snapshot s) →
      ∃ t, exec .activate s = .next t ∧ RenderedInto s.playBank.other s t ∧ t.on = true ∧
        t.playBank = s.playBank.other ∧ t.result = .ok ∧ t.lastOp = 0x02#8) ∧
    (s.on = false → ∀ e, RenderFails (snapshot s) e →
      exec .activate s = .next { s with result := e.result, lastOp := 0x02#8, err := s.err ||| e.result.errFlag }) ∧
    (s.on = true →
      exec .activate s = .next { s with result := .badState, lastOp := 0x02#8, err := s.err ||| 0x08#8 })

/-- R205: in On, DEACTIVATE completes by clearing ON and nothing else but RESULT and LAST_OP; in Off it is refused with
BAD_STATE. -/
def Obligations.DeactivateOnlyClearsOn : Prop :=
  ∀ s : State,
    (s.on = true → exec .deactivate s = .next { s with on := false, result := .ok, lastOp := 0x03#8 }) ∧
    (s.on = false →
      exec .deactivate s = .next { s with result := .badState, lastOp := 0x03#8, err := s.err ||| 0x08#8 })

/-- R206: in On, where every check of the render passes, TICK completes with the fresh bank playing; in On, a failing
render leaves the old buffer playing; in Off it is refused with BAD_STATE. -/
def Obligations.TickRendersThenSwapsBanks : Prop :=
  ∀ s : State,
    (s.on = true → Renderable (snapshot s) →
      ∃ t, exec .tick s = .next t ∧ RenderedInto s.playBank.other s t ∧ t.on = true ∧
        t.playBank = s.playBank.other ∧ t.result = .ok ∧ t.lastOp = 0x04#8) ∧
    (s.on = true → ∀ e, RenderFails (snapshot s) e →
      exec .tick s = .next { s with result := e.result, lastOp := 0x04#8, err := s.err ||| e.result.errFlag }) ∧
    (s.on = false →
      exec .tick s = .next { s with result := .badState, lastOp := 0x04#8, err := s.err ||| 0x08#8 })

/-- R207: the state On or Off after each command, from the state before it and whether its render succeeds. -/
def Obligations.OnFollowsTheTransitionTable : Prop :=
  ∀ (s : State),
    (∃ t, exec .nop s = .next t ∧ t.on = s.on) ∧
    (∃ t, exec .render s = .next t ∧ t.on = s.on) ∧
    (∃ t, exec .activate s = .next t ∧ (t.on = true ↔ s.on = true ∨ Renderable (snapshot s))) ∧
    (∃ t, exec .deactivate s = .next t ∧ t.on = false) ∧
    (∃ t, exec .tick s = .next t ∧ t.on = s.on)

/-- R201, R232: every delivered word, legal or not, leaves LAST_OP at its bits 7:0, and a result other than OK sets ERR bit
`code - 1`. -/
def Obligations.EveryWordEndsWithTheEpilogue : Prop :=
  ∀ (s : State) (w : Word64), ∃ t, step (s.withEvent (.hostWrite 0x060 8 w)) = .next t ∧
    t.lastOp = w.extractLsb' 0 8 ∧
    (t.result ≠ .ok → t.err = s.err ||| (1#8 <<< (t.result.code.toNat - 1))) ∧
    (t.result = .ok → t.err = s.err ∨ t.err = s.err ||| 0x40#8)

/-- R234, R232: a command that ends with a code other than OK has made exactly three writes: RESULT, LAST_OP and the ERR
bit `code - 1`. -/
def Obligations.FailedCommandMakesThreeWrites : Prop :=
  ∀ (s t : State) (w : Word64), runWord w s = .next t → t.result ≠ .ok →
    t = { s with
      result := t.result
      lastOp := w.extractLsb' 0 8
      err := s.err ||| (1#8 <<< (t.result.code.toNat - 1)) }

/-- R235, its list of causes: an illegal word reports ILLEGAL_CMD, then the state check reports BAD_STATE, whatever the
parameters are; then the render's own checks report in the order that `RenderFails` follows. -/
def Obligations.FirstFailingCheckIsReported : Prop :=
  ∀ (s : State) (w : Word64), ∃ t, runWord w s = .next t ∧
    ((∀ i, w ≠ encode i) → t.result = .illegalCmd) ∧
    (w = encode .activate → s.on = true → t.result = .badState) ∧
    ((w = encode .deactivate ∨ w = encode .tick) → s.on = false → t.result = .badState) ∧
    ∀ e, RenderFails (snapshot s) e →
      (w = encode .render ∨ (w = encode .activate ∧ s.on = false) ∨ (w = encode .tick ∧ s.on = true)) →
        t.result = e.result

/-- R111: what the snapshot reads. R119, which the spec marks as derived from R111 and R110: two renders from equal
snapshots, each of RENDER, ACTIVATE in Off or TICK in On, give the same result and write equal sample sequences of equal
length, whatever their target banks and the rest of the two states. -/
def Obligations.RenderDependsOnTheSnapshotAlone : Prop :=
  (∀ s : State, snapshot s =
    { filtEn := s.ctrl.getLsbD 0, triFix := s.ctrl.getLsbD 1, kind := s.wave, amp := s.amplitude, f := s.frequencyHz
      pw := s.pulseWidth, cutoff := s.cutoffHz, att := s.attackMs, dec := s.decayMs, sus := s.sustainLevel
      rel := s.releaseMs, sr := s.sampleRateHz.toNat, dur := s.durationMs.toNat }) ∧
  ∀ (s s' : State) (i i' : Instr), snapshot s = snapshot s' →
    let renders (i : Instr) (s : State) : Prop :=
      i = .render ∨ (i = .activate ∧ s.on = false) ∨ (i = .tick ∧ s.on = true)
    renders i s → renders i' s' →
      ∃ t t', exec i s = .next t ∧ exec i' s' = .next t' ∧ t.result = t'.result ∧
        (t.result = .ok →
          t.bankLen s.playBank.other = t'.bankLen s'.playBank.other ∧
          ∀ j, j < (t.bankLen s.playBank.other).toNat →
            t.bankWord s.playBank.other j = t'.bankWord s'.playBank.other j)

/-- R20: no command writes a parameter register; a host write to another register, a read, a sink read and idling leave
all twelve as they were. -/
def Obligations.OnlyHostWritesChangeParameters : Prop :=
  (∀ (i : Instr) (s : State), ∃ t, exec i s = .next t ∧ SameParameters s t ∧ SameOutside s t) ∧
  ∀ (s t : State) (e : Event), step (s.withEvent e) = .next t → e ≠ .reset →
    (∀ off n v, e = .hostWrite off n v → RegisterAccess off n → 0x060 ≤ off.toNat) → SameParameters s t

/-- R43, R207: from Off to On only a CMD write that delivers ACTIVATE with every check of its render passing leads; from
On to Off only one that delivers DEACTIVATE, or a reset. -/
def Obligations.OnlyActivateTurnsOnOnlyDeactivateTurnsOff : Prop :=
  ∀ (s t : State) (e : Event), step (s.withEvent e) = .next t →
    (s.on = false → t.on = true →
      Renderable (snapshot s) ∧
        ∃ off n v, e = .hostWrite off n v ∧ RegisterAccess off n ∧ off.toNat / 8 = 0x060 / 8 ∧
          placedData off n v = encode .activate) ∧
    (s.on = true → t.on = false →
      e = .reset ∨ ∃ off n v, e = .hostWrite off n v ∧ RegisterAccess off n ∧ off.toNat / 8 = 0x060 / 8 ∧
        placedData off n v = encode .deactivate)

/-! ### Playback (10_state.md R36, 20_memory.md R75, R76) -/

/-- R36: while On, whatever happens but a reset, the bank that was playing keeps every byte and its length through the
step. -/
def Obligations.PlayingBankIsNeverWritten : Prop :=
  ∀ (s t : State) (e : Event), s.on = true → e ≠ .reset → step (s.withEvent e) = .next t →
    t.bankLen s.playBank = s.bankLen s.playBank ∧
    ∀ a, s.playBank.base ≤ a → a < s.playBank.base + 2 ^ 22 →
      memByte? t.mem a = memByte? s.mem a ∧ t.byteAt a = s.byteAt a

/-- R76: over any number of steps with no TICK, no DEACTIVATE and no reset among their events, the port keeps showing the
same bank and length, and every word the sink may read there keeps its value. -/
def Obligations.SinkBufferIsStableUntilTickOrDeactivate : Prop :=
  ∀ (k : Nat) (s t : State), s.on = true → (∀ e ∈ s.inbox.take k, KeepsPlaying e) →
    Host.Core.run Sys2Proof.core k s = .next t →
      t.playValid = true ∧ t.playBank = s.playBank ∧ t.playLen = s.playLen ∧
        ∀ i, i < 2 ^ 21 → t.bankWord s.playBank i = s.bankWord s.playBank i

/-- R75: PLAY_VALID is ON and PLAY_LEN the length of the bank PLAY_BANK. R75, R76: a sink read of the playback bank below
PLAY_LEN while PLAY_VALID = 1 returns that bank's word; any other returns a free value (log entry 5). Neither changes
anything of the block. -/
def Obligations.SinkReadReturnsTheWordOrAnyValue : Prop :=
  (∀ s : State, s.playValid = s.on ∧ s.playLen = (s.bankLen s.playBank).toNat) ∧
  ∀ (s : State) (b : Bank) (i : Nat),
    (s.on = true → b = s.playBank → i < (s.bankLen s.playBank).toNat →
      step (s.withEvent (.sinkRead b i)) = .next { s with reply := .sinkData (s.bankWord b i) }) ∧
    (¬ (s.on = true ∧ b = s.playBank ∧ i < (s.bankLen s.playBank).toNat) →
      step (s.withEvent (.sinkRead b i)) =
        .next { s with reply := .sinkData (Config.sinkRaceSample s.sinkDraws), sinkDraws := s.sinkDraws + 1 })

/-! ### The whole machine -/

/-- R246, R230: from every state every number of steps ends in a next state: no step faults, none refuses. -/
def Obligations.NoRunEverStops : Prop :=
  ∀ (k : Nat) (s : State), ∃ t, Host.Core.run Sys2Proof.core k s = .next t

/-- R36, R39, R42, R66, R120: every step keeps `Inv`, from every state that has it. -/
def Obligations.EveryStepKeepsInv : Prop :=
  ∀ s t : State, Inv s → step s = .next t → Inv t

/-- U12, R184: every step keeps the FILT registers finite, FILT_B1 equal to FILT_B0, whatever TAN64 is. -/
def Obligations.EveryStepKeepsFiltFinite : Prop :=
  ∀ s t : State, FiltFinite s → step s = .next t → FiltFinite t

/-- R261: `Inv` and `FiltFinite` hold of the reset state. -/
def Obligations.ResetStateHasTheInvariants : Prop := Inv State.reset ∧ FiltFinite State.reset

/-! ### Length and checks (40_render_pipeline.md, 43_filter.md) -/

/-- R114: N is the integer nearest to `sr * dur / 1000`, the even one at a tie; N = 0 fails RENDER, ACTIVATE in Off and
TICK in On with ZERO_LENGTH; and the rule's examples. -/
def Obligations.SampleCountIsNearestTiesToEven : Prop :=
  (∀ P : Params,
    2 * ((1000 * P.length : Int) - P.sr * P.dur).natAbs ≤ 1000 ∧
    (2 * ((1000 * P.length : Int) - P.sr * P.dur).natAbs = 1000 → P.length % 2 = 0)) ∧
  (∀ (s : State) (i : Instr), (snapshot s).length = 0 →
    i = .render ∨ (i = .activate ∧ s.on = false) ∨ (i = .tick ∧ s.on = true) →
      exec i s = .next { s with result := .zeroLength, lastOp := i.opcode, err := s.err ||| 0x01#8 }) ∧
  rheDiv (44100 * 1000) 1000 = 44100 ∧ rheDiv (44100 * 5) 1000 = 220 ∧ rheDiv (44100 * 15) 1000 = 662 ∧
  rheDiv (3 * 500) 1000 = 2 ∧ rheDiv (1 * 500) 1000 = 0

/-- R115: N > BUF_CAPACITY fails RENDER, ACTIVATE in Off and TICK in On with OVER_CAPACITY. -/
def Obligations.TooLongRenderFailsWithOverCapacity : Prop :=
  ∀ (s : State) (i : Instr), bufCapacity < (snapshot s).length →
    i = .render ∨ (i = .activate ∧ s.on = false) ∨ (i = .tick ∧ s.on = true) →
      exec i s = .next { s with result := .overCapacity, lastOp := i.opcode, err := s.err ||| 0x02#8 }

/-- R182: with FILT_EN = 1, a cutoff that is not finite, or whose normalized cutoff is not above 0, fails RENDER, ACTIVATE
in Off and TICK in On with BAD_PARAM where the earlier checks pass; with FILT_EN = 0, CUTOFF_HZ makes no difference to
what any command does. -/
def Obligations.InvalidCutoffFailsOnlyFilteredRenders : Prop :=
  (∀ (s : State) (i : Instr), (snapshot s).length ≠ 0 → (snapshot s).length ≤ bufCapacity → ValidParams (snapshot s) →
    s.ctrl.getLsbD 0 = true →
    (f64IsFinite s.cutoffHz = false ∨
      f64Lt f64PosZero (normalizedCutoff s.cutoffHz s.sampleRateHz.toNat) = false) →
    i = .render ∨ (i = .activate ∧ s.on = false) ∨ (i = .tick ∧ s.on = true) →
      exec i s = .next { s with result := .badParam, lastOp := i.opcode, err := s.err ||| 0x04#8 }) ∧
  ∀ (s : State) (i : Instr) (c : F64), s.ctrl.getLsbD 0 = false →
    ∃ t, exec i s = .next t ∧ exec i { s with cutoffHz := c } = .next { t with cutoffHz := c }

/-- R180, R181: the normalized cutoff is the quotient `cutoff / (0.5 * sr)` below 1.0 and PRED1 from 1.0 on; where it
passes the check of R182 it lies above 0 and at or below PRED1, and is finite. -/
def Obligations.NormalizedCutoffIsClampedBelowOne : Prop :=
  ∀ (cutoff : F64) (sr : Nat),
    let q := f64Div cutoff (f64Mul 0x3FE0000000000000#64 (f64OfNat sr))
    (f64Le 0x3FF0000000000000#64 q = true → normalizedCutoff cutoff sr = 0x3FEFFFFFFFFFFFFF#64) ∧
    (f64Le 0x3FF0000000000000#64 q = false → normalizedCutoff cutoff sr = q) ∧
    (f64Lt f64PosZero (normalizedCutoff cutoff sr) = true →
      f64Le (normalizedCutoff cutoff sr) 0x3FEFFFFFFFFFFFFF#64 = true ∧
        f64IsFinite (normalizedCutoff cutoff sr) = true)

/-- R14: SIN64 is NaN off the finite values and a finite value in [-1, 1] on them; TAN64 is finite and above 0 for
0 < x <= PI64/2. -/
def Obligations.TrigonometryHasTheStatedProperties : Prop :=
  ∀ x : F64,
    (f64IsFinite x = false → f64IsNaN (sin64 x) = true) ∧
    (f64IsFinite x = true → f64IsFinite (sin64 x) = true ∧
      (f64Units (sin64 x)).natAbs ≤ unitsPerOne) ∧
    (f64Lt f64PosZero x = true → f64Le x 0x3FF921FB54442D18#64 = true →
      f64IsFinite (tan64 x) = true ∧ 0 < f64Units (tan64 x))

/-! ### Binary64 (00_scope.md R11, R12) -/

/-- R11: `x + y` and `x - y` of finite values are the finite value nearest to the exact result, the even one at a tie. A NaN
operand gives a NaN and `inf - inf` is a NaN (R144, R145). The rest is IEEE-754's, the model's choice (log entry 10): from
half a quantum above the largest finite value on, the result is the infinity with the sign of the exact result; an
infinity with a finite value is that infinity; and an exact zero is +0.0 unless both addends are negative. -/
def Obligations.SumRoundsToNearestEven : Prop :=
  let infinity (negative : Bool) : F64 := if negative then 0xFFF0000000000000#64 else 0x7FF0000000000000#64
  (∀ x y q : F64, f64IsFinite x = true → f64IsFinite y = true → f64IsFinite q = true →
    let overflow : Nat := (2 ^ 54 - 1) * 2 ^ 2044
    let rounded (r : F64) (exact : Int) (bothNegative : Bool) : Prop :=
      (exact.natAbs < overflow →
        f64IsFinite r = true ∧
        (f64Units r - exact).natAbs ≤ (f64Units q - exact).natAbs ∧
        ((f64Units r - exact).natAbs = (f64Units q - exact).natAbs → f64Units q ≠ f64Units r →
          f64Magnitude r % 2 = 0)) ∧
      (overflow ≤ exact.natAbs → r = infinity (decide (exact < 0))) ∧
      (exact = 0 → r = if bothNegative then 0x8000000000000000#64 else 0x0000000000000000#64)
    rounded (f64Add x y) (f64Units x + f64Units y) (f64Negative x && f64Negative y) ∧
      rounded (f64Sub x y) (f64Units x - f64Units y) (f64Negative x && !f64Negative y)) ∧
  (∀ x y : F64, f64IsNaN x = true ∨ f64IsNaN y = true →
    f64IsNaN (f64Add x y) = true ∧ f64IsNaN (f64Sub x y) = true) ∧
  (∀ (n : Bool) (y : F64), f64IsFinite y = true →
    f64Add (infinity n) y = infinity n ∧ f64Add y (infinity n) = infinity n ∧
      f64Sub (infinity n) y = infinity n ∧ f64Sub y (infinity n) = infinity (!n)) ∧
  ∀ n : Bool,
    f64Add (infinity n) (infinity n) = infinity n ∧ f64IsNaN (f64Add (infinity n) (infinity (!n))) = true ∧
      f64Sub (infinity n) (infinity (!n)) = infinity n ∧ f64IsNaN (f64Sub (infinity n) (infinity n)) = true

/-- R11: `x * y` of finite values is the finite value nearest to the exact product, the even one at a tie. A NaN operand
gives a NaN, `inf * 0` is a NaN, and a product of positive factors with an infinity, or past the largest finite value, is
+inf (R116, R143, R144, R165). The rest is IEEE-754's, the model's choice (log entry 10): that overflow begins half a
quantum above the largest finite value, and that the sign of every product, zeros and infinities among them, is the
exclusive or of the signs. -/
def Obligations.ProductRoundsToNearestEven : Prop :=
  let infinity (negative : Bool) : F64 := if negative then 0xFFF0000000000000#64 else 0x7FF0000000000000#64
  (∀ x y q : F64, f64IsFinite x = true → f64IsFinite y = true → f64IsFinite q = true →
    let r := f64Mul x y
    let exact := f64Units x * f64Units y
    let one := (unitsPerOne : Int)
    let overflow : Nat := unitsPerOne * ((2 ^ 54 - 1) * 2 ^ 2044)
    (exact.natAbs < overflow →
      f64IsFinite r = true ∧
      (f64Units r * one - exact).natAbs ≤ (f64Units q * one - exact).natAbs ∧
      ((f64Units r * one - exact).natAbs = (f64Units q * one - exact).natAbs → f64Units q ≠ f64Units r →
        f64Magnitude r % 2 = 0)) ∧
    (overflow ≤ exact.natAbs → r = infinity (decide (exact < 0))) ∧
    f64Negative r = (f64Negative x != f64Negative y)) ∧
  (∀ x y : F64, f64IsNaN x = true ∨ f64IsNaN y = true → f64IsNaN (f64Mul x y) = true) ∧
  (∀ (n : Bool) (y : F64), f64IsFinite y = true →
    (f64Units y = 0 → f64IsNaN (f64Mul (infinity n) y) = true ∧ f64IsNaN (f64Mul y (infinity n)) = true) ∧
    (f64Units y ≠ 0 →
      f64Mul (infinity n) y = infinity (n != f64Negative y) ∧
        f64Mul y (infinity n) = infinity (n != f64Negative y))) ∧
  ∀ n m : Bool, f64Mul (infinity n) (infinity m) = infinity (n != m)

/-- R11: `x / y` of finite values, `y` not zero, is the finite value nearest to the exact quotient, the even one at a tie.
The rest is IEEE-754's, the model's choice (log entry 10): from half a quantum above the largest finite value on, the
result is the infinity with the sign of the exact quotient; a NaN operand, `0 / 0` and `inf / inf` give a NaN; `x / 0` of
another `x` and `inf / y` of a finite `y` are infinities and `x / inf` of a finite `x` is a zero; and the sign of every
quotient is the exclusive or of the signs. -/
def Obligations.QuotientRoundsToNearestEven : Prop :=
  let infinity (negative : Bool) : F64 := if negative then 0xFFF0000000000000#64 else 0x7FF0000000000000#64
  (∀ x y q : F64, f64IsFinite x = true → f64IsFinite y = true → f64IsFinite q = true →
    let r := f64Div x y
    let exact := f64Units x * (unitsPerOne : Int)
    let overflow : Nat := (f64Units y).natAbs * ((2 ^ 54 - 1) * 2 ^ 2044)
    (f64Units y ≠ 0 →
      (exact.natAbs < overflow →
        f64IsFinite r = true ∧
        (f64Units r * f64Units y - exact).natAbs ≤ (f64Units q * f64Units y - exact).natAbs ∧
        ((f64Units r * f64Units y - exact).natAbs = (f64Units q * f64Units y - exact).natAbs →
          f64Units q ≠ f64Units r → f64Magnitude r % 2 = 0)) ∧
      (overflow ≤ exact.natAbs → r = infinity (decide (f64Units x * f64Units y < 0))) ∧
      f64Negative r = (f64Negative x != f64Negative y)) ∧
    (f64Units y = 0 →
      (f64Units x ≠ 0 → r = infinity (f64Negative x != f64Negative y)) ∧
      (f64Units x = 0 → f64IsNaN r = true))) ∧
  (∀ x y : F64, f64IsNaN x = true ∨ f64IsNaN y = true → f64IsNaN (f64Div x y) = true) ∧
  (∀ (n : Bool) (y : F64), f64IsFinite y = true →
    f64Div (infinity n) y = infinity (n != f64Negative y) ∧
      f64Div y (infinity n) =
        if (n != f64Negative y) = true then 0x8000000000000000#64 else 0x0000000000000000#64) ∧
  ∀ n m : Bool, f64IsNaN (f64Div (infinity n) (infinity m)) = true

/-- R11: `f64(k)` is exact for every integer of magnitude at most 2^53. -/
def Obligations.IntegerConversionIsExact : Prop :=
  (∀ k : Nat, k ≤ 2 ^ 53 → f64IsFinite (f64OfNat k) = true ∧ f64Units (f64OfNat k) = k * (unitsPerOne : Int)) ∧
  ∀ k : Int, k.natAbs ≤ 2 ^ 53 → f64IsFinite (f64OfInt k) = true ∧ f64Units (f64OfInt k) = k * (unitsPerOne : Int)

/-- R12, FLOOR: the largest integral value at or below a finite `x`; `x` itself when `x` is not finite. R12, ABS: clears
the sign bit and no other, so that a finite value becomes its magnitude. -/
def Obligations.FloorIsTheLargestIntegralBelow : Prop :=
  ∀ x : F64,
    (f64IsFinite x = true → f64IsFinite (f64Floor x) = true ∧
      ∃ k : Int, f64Units (f64Floor x) = k * (unitsPerOne : Int) ∧ k * (unitsPerOne : Int) ≤ f64Units x ∧
        f64Units x < (k + 1) * (unitsPerOne : Int)) ∧
    (f64IsFinite x = false → f64Floor x = x) ∧
    f64Abs x = 0#1 ++ x.extractLsb' 0 63 ∧
    (f64IsFinite x = true → f64IsFinite (f64Abs x) = true ∧ f64Units (f64Abs x) = (f64Units x).natAbs)

/-- R12, FRAC and R145: FRAC(x) is `x - FLOOR(x)`, a NaN for an infinity or a NaN, and for a finite `x` that is not negative
that difference is exact and lies in [0, 1). The model's reading of R12's "exact for finite x" (log entry 11): below zero
the exact difference need not be a binary64 value. -/
def Obligations.FracIsExactAndBelowOne : Prop :=
  ∀ x : F64,
    f64Frac x = f64Sub x (f64Floor x) ∧
    (f64IsFinite x = false → f64IsNaN (f64Frac x) = true) ∧
    (f64IsFinite x = true → 0 ≤ f64Units x →
      f64IsFinite (f64Frac x) = true ∧ f64Units (f64Frac x) = f64Units x - f64Units (f64Floor x) ∧
        0 ≤ f64Units (f64Frac x) ∧ f64Units (f64Frac x) < (unitsPerOne : Int))

/-- R12: isFinite is false exactly for the infinities and the NaNs; the comparisons are exact, -inf below every other value
and +inf above, and false with a NaN; CLAMP01 is +0.0 below 0, 1.0 above 1, and `x` itself otherwise, so that a finite
value is clamped to [0, 1]. R113: E.amp, E.pw and E.S are CLAMP01 of AMPLITUDE, PULSE_WIDTH and SUSTAIN_LEVEL. -/
def Obligations.ClampKeepsTheUnitInterval : Prop :=
  let posInf : F64 := 0x7FF0000000000000#64
  let negInf : F64 := 0xFFF0000000000000#64
  (∀ x : F64,
    (f64IsInf x = true ↔ x = posInf ∨ x = negInf) ∧
    (f64IsNaN x = true ↔ x.extractLsb' 52 11 = 0x7FF#11 ∧ x.extractLsb' 0 52 ≠ 0) ∧
    (f64IsFinite x = false ↔ f64IsInf x = true ∨ f64IsNaN x = true)) ∧
  (∀ x y : F64,
    (f64IsNaN x = true ∨ f64IsNaN y = true → f64Lt x y = false ∧ f64Le x y = false) ∧
    (f64IsNaN x = false → f64IsNaN y = false →
      (f64Lt x y = true ↔
        (x = negInf ∧ y ≠ negInf) ∨ (x ≠ posInf ∧ y = posInf) ∨
          (f64IsFinite x = true ∧ f64IsFinite y = true ∧ f64Units x < f64Units y)) ∧
      (f64Le x y = true ↔
        x = negInf ∨ y = posInf ∨
          (f64IsFinite x = true ∧ f64IsFinite y = true ∧ f64Units x ≤ f64Units y)))) ∧
  (∀ x : F64, f64IsFinite x = true →
    f64IsFinite (f64Clamp01 x) = true ∧
    f64Units (f64Clamp01 x) = max 0 (min (unitsPerOne : Int) (f64Units x)) ∧
    (f64Units x < 0 → f64Clamp01 x = 0x0000000000000000#64) ∧
    ((unitsPerOne : Int) < f64Units x → f64Clamp01 x = 0x3FF0000000000000#64) ∧
    (0 ≤ f64Units x → f64Units x ≤ (unitsPerOne : Int) → f64Clamp01 x = x)) ∧
  (f64Clamp01 posInf = 0x3FF0000000000000#64 ∧ f64Clamp01 negInf = 0x0000000000000000#64 ∧
    ∀ x : F64, f64IsNaN x = true → f64Clamp01 x = x) ∧
  ∀ s : State,
    (snapshot s).effAmp = f64Clamp01 s.amplitude ∧ (snapshot s).effPw = f64Clamp01 s.pulseWidth ∧
      (snapshot s).effSus = f64Clamp01 s.sustainLevel

/-- R116: Conv16 saturates to [-32768, 32767], truncates toward zero, sends the infinities to the ends, and sends a NaN to
0 with the latch set; no other value sets the latch. -/
def Obligations.ConversionSaturatesThenTruncates : Prop :=
  ∀ v : F64,
    (f64IsNaN v = true → conv16 v = (0, true)) ∧
    (f64IsInf v = true → conv16 v = (if f64Negative v then -32768#16 else 32767#16, false)) ∧
    (f64IsFinite v = true → (conv16 v).2 = false ∧
      (conv16 v).1.toInt =
        (max (-32768 * (unitsPerOne : Int)) (min (32767 * (unitsPerOne : Int)) (f64Units v))).tdiv
          (unitsPerOne : Int))

/-! ### The stages (41_oscillator.md, 42_envelope.md) -/

/-- R143 to R147, R141, R142, R113: for a frequency above 0 each kind applies its own formula at `t_i = f64(i) / f64(sr)`,
operation by operation in the order its rule gives, with the amplitude and the pulse width clamped by CLAMP01. -/
def Obligations.EachKindAppliesItsFormula : Prop :=
  ∀ (P : Params) (i : Nat), f64Lt f64PosZero P.f = true →
    let t := f64Div (f64OfNat i) (f64OfNat P.sr)
    let one := 0x3FF0000000000000#64
    let two := 0x4000000000000000#64
    let amp := f64Clamp01 P.amp
    let p := f64Mul P.f t
    (P.kind = .sine → oscillator P i = f64Mul amp (sin64 (f64Mul (f64Mul (f64Mul two 0x400921FB54442D18#64) P.f) t))) ∧
    (P.kind = .triangle → P.triFix = false → oscillator P i =
      f64Mul amp (f64Sub (f64Mul two (f64Abs (f64Sub (f64Mul (f64Mul two P.f) t) one))) one)) ∧
    (P.kind = .triangle → P.triFix = true → oscillator P i =
      f64Mul amp (f64Sub (f64Mul two (f64Abs (f64Sub (f64Mul two (f64Frac p)) one))) one)) ∧
    (P.kind = .sawtooth → oscillator P i =
      f64Mul (f64Mul amp two) (f64Sub p (f64Floor (f64Add 0x3FE0000000000000#64 p)))) ∧
    (P.kind = .square → oscillator P i =
      f64Mul amp (f64Mod2 (f64Floor (f64Add (f64Mul (f64Mul two P.f) t) (f64Clamp01 P.pw)))))

/-- R12, MOD2: 1.0 of an odd integer, +0.0 of an even one, every integral value of magnitude 2^53 or more being even, and
NaN off the finite values. R147, R140: for a finite amplitude, the square wave is E.amp where the whole part of its
phase term is odd, 0 where it is even, and NaN where the phase term is not finite. -/
def Obligations.SquareHasTwoLevels : Prop :=
  (∀ (k : F64) (n : Int), f64IsFinite k = true → f64Units k = n * (unitsPerOne : Int) →
    (n % 2 = 1 → f64Mod2 k = 0x3FF0000000000000#64) ∧ (n % 2 = 0 → f64Mod2 k = 0x0000000000000000#64) ∧
      (2 ^ 53 ≤ n.natAbs → n % 2 = 0)) ∧
  (∀ k : F64, f64IsFinite k = false → f64IsNaN (f64Mod2 k) = true) ∧
  ∀ (P : Params) (i : Nat), P.kind = .square → f64Lt f64PosZero P.f = true → f64IsFinite P.amp = true →
    let phase := f64Add (f64Mul (f64Mul 0x4000000000000000#64 P.f) (f64Div (f64OfNat i) (f64OfNat P.sr)))
      (f64Clamp01 P.pw)
    (f64IsFinite phase = true → ∀ n : Int,
      n * (unitsPerOne : Int) ≤ f64Units phase → f64Units phase < (n + 1) * (unitsPerOne : Int) →
        (n % 2 = 1 → oscillator P i = f64Clamp01 P.amp) ∧ (n % 2 = 0 → f64Units (oscillator P i) = 0)) ∧
    (f64IsFinite phase = false → f64IsNaN (oscillator P i) = true)

/-- R148: when FREQUENCY_HZ is not above 0 (zeros, negative values, -inf, NaN), a render that passes its checks, of RENDER,
ACTIVATE in Off or TICK in On, succeeds and writes N zero words, of every kind, with the filter on or off; and the checks
still come first. -/
def Obligations.SilenceRendersZeroWords : Prop :=
  ∀ s : State, f64Lt f64PosZero s.frequencyHz = false →
    (∀ i, oscillator (snapshot s) i = f64PosZero) ∧
    ∀ i : Instr, i = .render ∨ (i = .activate ∧ s.on = false) ∨ (i = .tick ∧ s.on = true) →
      (Renderable (snapshot s) →
        ∃ t, exec i s = .next t ∧ t.result = .ok ∧
          (t.bankLen s.playBank.other).toNat = (snapshot s).length ∧
          ∀ j, j < (snapshot s).length → t.bankWord s.playBank.other j = 0) ∧
      ∀ e, RenderFails (snapshot s) e →
        exec i s = .next { s with result := e.result, lastOp := i.opcode, err := s.err ||| e.result.errFlag }

/-- R161: element k of a ramp of length L >= 1 from a to b is a for L = 1, else b for k = L - 1, else
`(f64(k) * ((b - a) / f64(L - 1))) + a`, operation by operation. R162: for A + D + R <= N the segments are the source's:
attack on [0, A), decay on [A, A+D), sustain on [A+D, N-R), release on [N-R, N), each a ramp between its two ends. -/
def Obligations.EnvelopeHasTheFourSegments : Prop :=
  (∀ (a b : F64) (L k : Nat), 1 ≤ L → k < L →
    (L = 1 → ramp a b L k = a) ∧
    (L ≠ 1 → k = L - 1 → ramp a b L k = b) ∧
    (k < L - 1 → ramp a b L k = f64Add (f64Mul (f64OfNat k) (f64Div (f64Sub b a) (f64OfNat (L - 1)))) a)) ∧
  ∀ (i N A D R : Nat) (S : F64), A + D + R ≤ N → i < N →
    let zero := 0x0000000000000000#64
    let one := 0x3FF0000000000000#64
    (i < A → envelope i N A D R S = ramp zero one A i) ∧
    (A ≤ i → i < A + D → envelope i N A D R S = ramp one S D (i - A)) ∧
    (A + D ≤ i → i < N - R → envelope i N A D R S = S) ∧
    (N - R ≤ i → envelope i N A D R S = ramp S zero R (i - (N - R)))

/-- R164, R163, R161: with R >= 2 the last envelope value is +0.0, with R = 1 it is S; with A >= 1 and R < N the first is
zero; with A = D = R = 0 every value is S; whatever R is, the release covers the whole tail and starts from S; and before
it attack, decay and sustain keep the places and the slopes that A and D give them, cut off where the release begins. -/
def Obligations.EnvelopeEndsAndOverlaps : Prop :=
  ∀ (N A D R : Nat) (S : F64), 0 < N →
    let zero := 0x0000000000000000#64
    let one := 0x3FF0000000000000#64
    (2 ≤ R → envelope (N - 1) N A D R S = zero) ∧
    (R = 1 → envelope (N - 1) N A D R S = S) ∧
    (1 ≤ A → A ≤ 2 ^ 52 → R < N → f64Units (envelope 0 N A D R S) = 0 ∧ f64IsFinite (envelope 0 N A D R S) = true) ∧
    (∀ i, i < N → envelope i N 0 0 0 S = S) ∧
    (∀ i, i < N → N ≤ i + R → envelope i N A D R S = ramp S zero R (i + R - N)) ∧
    (∀ i, i < N → i + R < N → i < A → envelope i N A D R S = ramp zero one A i) ∧
    (∀ i, i < N → i + R < N → A ≤ i → i < A + D → envelope i N A D R S = ramp one S D (i - A)) ∧
    (∀ i, i < N → i + R < N → A + D ≤ i → envelope i N A D R S = S)

/-- R160: a segment count is 0 for a negative time; otherwise, for a finite time and the binary64 product
`(ms / 1000.0) * f64(sr)`, it is the integer nearest to that product, the even one at a tie, where the product is at most
SEG_MAX = 2^52, and 2^52 where the product is finite and at least 2^52, and where it is +inf. -/
def Obligations.SegmentCountIsNearestAndBounded : Prop :=
  ∀ (ms : F64) (sr : Nat), f64IsFinite ms = true → sr < 2 ^ 32 →
    let x := f64Mul (f64Div ms 0x408F400000000000#64) (f64OfNat sr)
    segCount ms sr ≤ 2 ^ 52 ∧
    (f64Lt ms f64PosZero = true → segCount ms sr = 0) ∧
    (f64Lt ms f64PosZero = false → f64IsFinite x = true → f64Units x ≤ 2 ^ 52 * (unitsPerOne : Int) →
      2 * ((segCount ms sr * unitsPerOne : Int) - f64Units x).natAbs ≤ unitsPerOne ∧
      (2 * ((segCount ms sr * unitsPerOne : Int) - f64Units x).natAbs = unitsPerOne → segCount ms sr % 2 = 0)) ∧
    (f64Lt ms f64PosZero = false → f64IsFinite x = true → 2 ^ 52 * (unitsPerOne : Int) ≤ f64Units x →
      segCount ms sr = 2 ^ 52) ∧
    (f64Lt ms f64PosZero = false → f64IsInf x = true → segCount ms sr = 2 ^ 52)

/-! ### The filter (43_filter.md) -/

/-- R180, R181, R183, R184: a filtered render that passes its checks, of RENDER, ACTIVATE in Off or TICK in On, leaves in the
FILT registers what the formulas give operation by operation: `wn = cutoff / (0.5 * f64(sr))`, PRED1 from 1.0 on,
`b0 = b1 = K / (1.0 + K)` and `a1 = (K - 1.0) / (K + 1.0)` for `K = TAN64((PI64 * wn) / 2.0)`, which is finite and above
0. -/
def Obligations.FilteredRenderDerivesItsCoefficients : Prop :=
  ∀ (s : State) (i : Instr), s.ctrl.getLsbD 0 = true → Renderable (snapshot s) →
    i = .render ∨ (i = .activate ∧ s.on = false) ∨ (i = .tick ∧ s.on = true) →
      let one := 0x3FF0000000000000#64
      let two := 0x4000000000000000#64
      let quotient := f64Div s.cutoffHz (f64Mul 0x3FE0000000000000#64 (f64OfNat s.sampleRateHz.toNat))
      let wn := if f64Le one quotient = true then 0x3FEFFFFFFFFFFFFF#64 else quotient
      let K := tan64 (f64Div (f64Mul 0x400921FB54442D18#64 wn) two)
      f64IsFinite K = true ∧ 0 < f64Units K ∧
      ∃ t, exec i s = .next t ∧ t.filtWn = wn ∧ t.filtB0 = f64Div K (f64Add one K) ∧
        t.filtB1 = f64Div K (f64Add one K) ∧ t.filtA1 = f64Div (f64Sub K one) (f64Add K one)
end

