-- ==== Sys2Proof/Laws/Rounding.lean ====
section
/-! SUPPORT. What rounding does: the nearest integer and the nearest binary64 magnitude, ties to even (00_scope.md R11,
R12). -/

namespace Sys2Proof.Machine

/-! ### The nearest integer -/

/-- `rheDiv n d` is within half of `n / d`, and even when `n / d` lies halfway between two integers. -/
theorem rheDiv_spec (n : Nat) {d : Nat} (hd : 0 < d) :
    2 * n ≤ 2 * (d * rheDiv n d) + d ∧ 2 * (d * rheDiv n d) ≤ 2 * n + d ∧
      ((2 * n = 2 * (d * rheDiv n d) + d ∨ 2 * (d * rheDiv n d) = 2 * n + d) → rheDiv n d % 2 = 0) := by
  have h := Nat.div_add_mod n d
  have hr := Nat.mod_lt n hd
  unfold rheDiv
  simp only
  generalize n % d = r at *
  generalize n / d = q at *
  have e : d * (q + 1) = d * q + d := by ring
  split
  · exact ⟨by omega, by omega, by omega⟩
  · split
    · rw [e]; exact ⟨by omega, by omega, by omega⟩
    · split
      · exact ⟨by omega, by omega, by omega⟩
      · rw [e]; exact ⟨by omega, by omega, by omega⟩

/-- `rheDiv` is `k` when `n / d` lies strictly within half of `k`. -/
theorem rheDiv_unique {n d k : Nat} (hd : 0 < d) (h1 : 2 * n < 2 * (d * k) + d) (h2 : 2 * (d * k) < 2 * n + d) :
    rheDiv n d = k := by
  obtain ⟨a, b, -⟩ := rheDiv_spec n hd
  generalize rheDiv n d = r at *
  rcases Nat.lt_trichotomy r k with h | h | h
  · have : d * (r + 1) ≤ d * k := Nat.mul_le_mul_left d h
    have e : d * (r + 1) = d * r + d := by ring
    omega
  · exact h
  · have : d * (k + 1) ≤ d * r := Nat.mul_le_mul_left d h
    have e : d * (k + 1) = d * k + d := by ring
    omega

@[simp] theorem rheDiv_exact (k : Nat) {d : Nat} (hd : 0 < d) : rheDiv (d * k) d = k :=
  rheDiv_unique hd (by omega) (by omega)

/-- A larger quotient rounds to at least as large an integer. -/
theorem rheDiv_mono {n d n' d' : Nat} (hd : 0 < d) (hd' : 0 < d') (h : n * d' ≤ n' * d) :
    rheDiv n d ≤ rheDiv n' d' := by
  obtain ⟨a, b, t⟩ := rheDiv_spec n hd
  obtain ⟨a', b', t'⟩ := rheDiv_spec n' hd'
  by_contra hlt
  push Not at hlt
  generalize hr : rheDiv n d = r at *
  generalize hr' : rheDiv n' d' = r' at *
  have h1 : d * d' * (r' + 1) ≤ d * d' * r := Nat.mul_le_mul_left _ hlt
  have b2 : (2 * (d * r)) * d' ≤ (2 * n + d) * d' := Nat.mul_le_mul_right d' b
  have a2 : (2 * n') * d ≤ (2 * (d' * r') + d') * d := Nat.mul_le_mul_right d a'
  have e1 : 2 * (d * d' * r) ≤ 2 * (n * d') + d * d' := by linarith
  have e2 : 2 * (n' * d) ≤ 2 * (d * d' * r') + d * d' := by linarith
  have e3 : d * d' * (r' + 1) = d * d' * r' + d * d' := by ring
  have eq1 : 2 * (d * d' * r) = 2 * (n * d') + d * d' := by omega
  have eq2 : 2 * (n' * d) = 2 * (d * d' * r') + d * d' := by omega
  have f1 : 2 * (d * r) = 2 * n + d := by
    have : (2 * (d * r)) * d' = (2 * n + d) * d' := by linarith
    exact Nat.eq_of_mul_eq_mul_right hd' this
  have f2 : 2 * n' = 2 * (d' * r') + d' := by
    have : (2 * n') * d = (2 * (d' * r') + d') * d := by linarith
    exact Nat.eq_of_mul_eq_mul_right hd this
  have p := t (.inr f1)
  have p' := t' (.inl f2)
  have h2 : d * d' * r ≤ d * d' * (r' + 1) := by omega
  have : r ≤ r' + 1 := Nat.le_of_mul_le_mul_left h2 (Nat.mul_pos hd hd')
  omega

/-! ### The units of a magnitude -/

theorem unitsPerOne_pos : 0 < unitsPerOne := by
  rw [unitsPerOne]
  exact Nat.pow_pos Nat.two_pos

/-- A subnormal, or a value of the least exponent, is its own pattern in units. -/
theorem magnitudeUnits_small {m : Nat} (h : m ≤ 2 ^ 53) : magnitudeUnits m = m := by
  unfold magnitudeUnits
  split
  · rfl
  · rcases Nat.lt_or_ge m (2 ^ 53) with h' | h'
    · have : m / 2 ^ 52 = 1 := by omega
      rw [this]; omega
    · obtain rfl : m = 2 ^ 53 := by omega
      decide

/-- The pattern of significand `q` and quantum `2 ^ sh`. -/
theorem magnitudeUnits_scaled {sh q : Nat} (h1 : 2 ^ 52 ≤ q) (h2 : q ≤ 2 ^ 53) :
    magnitudeUnits (sh * 2 ^ 52 + q) = q * 2 ^ sh := by
  have hq : ¬ sh * 2 ^ 52 + q < 2 ^ 52 := by omega
  unfold magnitudeUnits
  rw [if_neg hq]
  rcases Nat.lt_or_ge q (2 ^ 53) with h | h
  · have e : (sh * 2 ^ 52 + q) / 2 ^ 52 = sh + 1 := by omega
    have e' : 2 ^ 52 + (sh * 2 ^ 52 + q) % 2 ^ 52 = q := by omega
    rw [e, e', Nat.add_sub_cancel]
  · have e : (sh * 2 ^ 52 + q) / 2 ^ 52 = sh + 2 := by omega
    have e' : 2 ^ 52 + (sh * 2 ^ 52 + q) % 2 ^ 52 = 2 ^ 52 := by omega
    have : q = 2 ^ 52 * 2 := by omega
    rw [e, e', this, show sh + 2 - 1 = sh + 1 by omega, Nat.pow_succ]
    ring

/-- Every magnitude pattern is a significand below 2^53 times a power of two, the significand at least 2^52 unless the
power is 1. -/
theorem magnitude_form (m : Nat) :
    ∃ sh q, m = sh * 2 ^ 52 + q ∧ q < 2 ^ 53 ∧ (2 ^ 52 ≤ q ∨ sh = 0) ∧ magnitudeUnits m = q * 2 ^ sh := by
  by_cases h : m < 2 ^ 52
  · exact ⟨0, m, by omega, by omega, .inr rfl, by simp [magnitudeUnits_small (by omega : m ≤ 2 ^ 53)]⟩
  · have hm : m = (m / 2 ^ 52 - 1) * 2 ^ 52 + (2 ^ 52 + m % 2 ^ 52) := by omega
    refine ⟨m / 2 ^ 52 - 1, 2 ^ 52 + m % 2 ^ 52, hm, by omega, .inl (by omega), ?_⟩
    unfold magnitudeUnits
    rw [if_neg h]

theorem magnitudeUnits_succ_gt (m : Nat) : magnitudeUnits m < magnitudeUnits (m + 1) := by
  obtain ⟨sh, q, hm, hq, hor, hu⟩ := magnitude_form m
  have h1 : magnitudeUnits (m + 1) = (q + 1) * 2 ^ sh := by
    rcases hor with h | h
    · rw [hm, Nat.add_assoc]
      exact magnitudeUnits_scaled (by omega) (by omega)
    · subst h
      rw [magnitudeUnits_small (by omega)]
      omega
  rw [hu, h1]
  exact Nat.mul_lt_mul_of_pos_right (Nat.lt_succ_self q) (Nat.two_pow_pos sh)

/-- Magnitude patterns lie in the order of their values. -/
theorem magnitudeUnits_strictMono : StrictMono magnitudeUnits :=
  strictMono_nat_of_lt_succ magnitudeUnits_succ_gt

/-! ### The nearest magnitude -/

/-- The quantum that `roundUnits` rounds to is 1, or the quotient is at least 2^52 quanta; either way it is below
2^53 quanta. -/
theorem quantum_bounds (n : Nat) {d : Nat} (hd : 0 < d) :
    n < 2 ^ 53 * (d * 2 ^ (Nat.log2 (n / d) - 52)) ∧
      (Nat.log2 (n / d) - 52 = 0 ∨ 2 ^ 52 * (d * 2 ^ (Nat.log2 (n / d) - 52)) ≤ n) := by
  have hm := Nat.div_add_mod n d
  have hr := Nat.mod_lt n hd
  generalize n / d = x at *
  generalize n % d = r at *
  by_cases h0 : x = 0
  · subst h0
    simp only [Nat.log2_zero, Nat.zero_sub, pow_zero, true_or, and_true]
    omega
  · constructor
    · have hlt := (Nat.log2_lt h0 (k := 53 + (Nat.log2 x - 52))).mp (by omega)
      have h2 : d * (x + 1) ≤ d * 2 ^ (53 + (Nat.log2 x - 52)) := Nat.mul_le_mul_left d hlt
      have e1 : d * (x + 1) = d * x + d := by ring
      have e2 : d * 2 ^ (53 + (Nat.log2 x - 52)) = 2 ^ 53 * (d * 2 ^ (Nat.log2 x - 52)) := by
        rw [pow_add]; ring
      omega
    · by_cases hs : Nat.log2 x - 52 = 0
      · exact .inl hs
      · have hle : 2 ^ (52 + (Nat.log2 x - 52)) ≤ x := (Nat.le_log2 h0).mp (by omega)
        have h2 : d * 2 ^ (52 + (Nat.log2 x - 52)) ≤ d * x := Nat.mul_le_mul_left d hle
        have e2 : d * 2 ^ (52 + (Nat.log2 x - 52)) = 2 ^ 52 * (d * 2 ^ (Nat.log2 x - 52)) := by
          rw [pow_add]; ring
        exact .inr (by omega)

/-- What `roundUnits` computes: a significand `q` of at most 53 bits over a quantum `2 ^ sh`, cut at infinity. -/
theorem roundUnits_form (n : Nat) {d : Nat} (hd : 0 < d) :
    ∃ sh q, sh = Nat.log2 (n / d) - 52 ∧ q = rheDiv n (d * 2 ^ sh) ∧
      roundUnits n d = min (sh * 2 ^ 52 + q) infMagnitude ∧ q ≤ 2 ^ 53 ∧
      (sh = 0 ∨ (2 ^ 52 ≤ q ∧ 2 ^ 52 * (d * 2 ^ sh) ≤ n)) ∧ magnitudeUnits (sh * 2 ^ 52 + q) = q * 2 ^ sh := by
  obtain ⟨hlt, hge⟩ := quantum_bounds n hd
  refine ⟨_, _, rfl, rfl, rfl, ?_⟩
  generalize Nat.log2 (n / d) - 52 = sh at *
  have hD : 0 < d * 2 ^ sh := Nat.mul_pos hd (Nat.two_pow_pos sh)
  have hq : rheDiv n (d * 2 ^ sh) ≤ 2 ^ 53 := by
    have := rheDiv_mono (n := n) (n' := d * 2 ^ sh * 2 ^ 53) hD hD
      (Nat.mul_le_mul_right _ (by rw [Nat.mul_comm (d * 2 ^ sh)]; exact hlt.le))
    rwa [rheDiv_exact _ hD] at this
  refine ⟨hq, ?_⟩
  rcases hge with h0 | hge
  · subst h0
    have := magnitudeUnits_small hq
    exact ⟨.inl rfl, by simpa using this⟩
  · have := rheDiv_mono (n := d * 2 ^ sh * 2 ^ 52) (n' := n) hD hD
      (Nat.mul_le_mul_right _ (by rw [Nat.mul_comm (d * 2 ^ sh)]; exact hge))
    rw [rheDiv_exact _ hD] at this
    exact ⟨.inr ⟨this, hge⟩, magnitudeUnits_scaled this hq⟩

theorem roundUnits_le_inf (n d : Nat) : roundUnits n d ≤ infMagnitude := Nat.min_le_right _ _

/-- A larger quotient rounds to at least as large a magnitude. -/
theorem roundUnits_mono {n d n' d' : Nat} (hd : 0 < d) (hd' : 0 < d') (h : n * d' ≤ n' * d) :
    roundUnits n d ≤ roundUnits n' d' := by
  obtain ⟨sh, q, hs, hq, hr, hb, -, -⟩ := roundUnits_form n hd
  obtain ⟨sh', q', hs', hq', hr', -, hb', -⟩ := roundUnits_form n' hd'
  have hdiv : n / d ≤ n' / d' := by
    rw [Nat.le_div_iff_mul_le hd']
    have h1 : d * (n / d) ≤ n := Nat.mul_div_le n d
    have h2 : d * (n / d) * d' ≤ n' * d := (Nat.mul_le_mul_right d' h1).trans h
    have h3 : d * (n / d * d') ≤ d * n' := by linarith
    exact Nat.le_of_mul_le_mul_left h3 hd
  have hlog : Nat.log2 (n / d) ≤ Nat.log2 (n' / d') := by
    by_cases h0 : n / d = 0
    · rw [h0]; simp
    · have h0' : n' / d' ≠ 0 := fun h => h0 (Nat.le_zero.mp (h ▸ hdiv))
      exact (Nat.le_log2 h0').mpr ((Nat.log2_self_le h0).trans hdiv)
  rw [hr, hr']
  refine min_le_min_right _ ?_
  rcases Nat.lt_or_ge sh sh' with hlt | hge
  · rcases hb' with h0 | ⟨h52, -⟩ <;> omega
  · have hsh : sh = sh' := by omega
    subst hsh
    have hp := Nat.two_pow_pos sh
    have : q ≤ q' := by
      rw [hq, hq']
      refine rheDiv_mono (Nat.mul_pos hd hp) (Nat.mul_pos hd' hp) ?_
      calc n * (d' * 2 ^ sh) = n * d' * 2 ^ sh := by ring
        _ ≤ n' * d * 2 ^ sh := Nat.mul_le_mul_right _ h
        _ = n' * (d * 2 ^ sh) := by ring
    omega

/-- A value that has a pattern rounds to that pattern. -/
theorem roundUnits_exact (m : Nat) {d : Nat} (hd : 0 < d) :
    roundUnits (magnitudeUnits m * d) d = min m infMagnitude := by
  obtain ⟨sh, q, hm, hq, hor, hu⟩ := magnitude_form m
  have hdiv : magnitudeUnits m * d / d = q * 2 ^ sh := by rw [Nat.mul_div_cancel _ hd, hu]
  have hsh : Nat.log2 (magnitudeUnits m * d / d) - 52 = sh := by
    rw [hdiv]
    rcases hor with h | h
    · have hq0 : q ≠ 0 := by omega
      have hne : q * 2 ^ sh ≠ 0 := Nat.mul_ne_zero hq0 (Nat.two_pow_pos sh).ne'
      have h1 : 52 + sh ≤ Nat.log2 (q * 2 ^ sh) :=
        (Nat.le_log2 hne).mpr (by rw [pow_add]; exact Nat.mul_le_mul_right _ h)
      have h2 : Nat.log2 (q * 2 ^ sh) < 53 + sh :=
        (Nat.log2_lt hne).mpr (by rw [pow_add]; exact Nat.mul_lt_mul_of_pos_right hq (Nat.two_pow_pos sh))
      omega
    · subst h
      by_cases h0 : q = 0
      · simp [h0]
      · have h2 : Nat.log2 (q * 2 ^ 0) < 53 := by
          rw [pow_zero, Nat.mul_one]; exact (Nat.log2_lt h0).mpr hq
        omega
  unfold roundUnits
  simp only [hsh]
  have : rheDiv (magnitudeUnits m * d) (d * 2 ^ sh) = q := by
    have e : magnitudeUnits m * d = d * 2 ^ sh * q := by rw [hu]; ring
    rw [e]
    exact rheDiv_exact _ (Nat.mul_pos hd (Nat.two_pow_pos sh))
  rw [this, hm]

/-- Rounding gives infinity exactly from half a quantum above the largest finite value on (00_scope.md R11). -/
theorem roundUnits_eq_inf_iff (n : Nat) {d : Nat} (hd : 0 < d) :
    roundUnits n d = infMagnitude ↔ d * ((2 ^ 54 - 1) * 2 ^ 2044) ≤ n := by
  have hinf : infMagnitude = 2047 * 2 ^ 52 := by decide
  obtain ⟨sh, q, hs, hq, hr, hb, hor, -⟩ := roundUnits_form n hd
  constructor
  · intro h
    have hge : infMagnitude ≤ sh * 2 ^ 52 + q := by
      rw [hr] at h; exact h ▸ Nat.min_le_left _ _
    have hD : 0 < d * 2 ^ sh := Nat.mul_pos hd (Nat.two_pow_pos sh)
    obtain ⟨a, b, -⟩ := rheDiv_spec n hD
    rw [← hq] at a b
    rcases Nat.lt_or_ge 2045 sh with hlt | hle
    · rcases hor with h0 | ⟨-, hn⟩
      · omega
      · have hp : (2 : Nat) ^ 2044 * 4 ≤ 2 ^ sh := by
          rw [show sh = 2044 + (sh - 2044) by omega, pow_add]
          exact Nat.mul_le_mul_left _ (Nat.pow_le_pow_right (n := 2) (by decide) (show 2 ≤ sh - 2044 by omega))
        have h1 : d * (2 ^ 2044 * 4) ≤ d * 2 ^ sh := Nat.mul_le_mul_left d hp
        generalize (2 : Nat) ^ 2044 = P at *
        have e2 : d * ((2 ^ 54 - 1) * P) = (2 ^ 54 - 1) * (d * P) := by ring
        have e3 : d * (P * 4) = 4 * (d * P) := by ring
        omega
    · have hq53 : q = 2 ^ 53 := by omega
      have hsh : sh = 2045 := by omega
      subst hsh
      have e : (2 : Nat) ^ 2045 = 2 ^ 2044 * 2 := pow_succ 2 2044
      rw [e, hq53] at b
      generalize (2 : Nat) ^ 2044 = P at *
      have e2 : d * ((2 ^ 54 - 1) * P) = (2 ^ 54 - 1) * (d * P) := by ring
      have e3 : d * (P * 2) * 2 ^ 53 = 2 ^ 54 * (d * P) := by ring
      have e4 : d * (P * 2) = 2 * (d * P) := by ring
      rw [e3, e4] at b
      omega
  · intro h
    have := roundUnits_mono (n := (2 ^ 54 - 1) * 2 ^ 2044) (d := 1) (n' := n) (d' := d) (by decide) hd
      (by rw [Nat.mul_one, Nat.mul_comm]; exact h)
    have hc : roundUnits ((2 ^ 54 - 1) * 2 ^ 2044) 1 = infMagnitude := by decide +kernel
    rw [hc] at this
    exact le_antisymm (roundUnits_le_inf n d) this

/-- No magnitude is nearer to `n / d` units than the finite magnitude it rounds to, and where another is as near, the
result is the even one (00_scope.md R11). -/
theorem roundUnits_nearest {n d : Nat} (hd : 0 < d) (hfin : roundUnits n d < infMagnitude) (y : Nat) :
    ((magnitudeUnits (roundUnits n d) * d : Int) - n).natAbs ≤ ((magnitudeUnits y * d : Int) - n).natAbs ∧
      (((magnitudeUnits (roundUnits n d) * d : Int) - n).natAbs = ((magnitudeUnits y * d : Int) - n).natAbs →
        y ≠ roundUnits n d → roundUnits n d % 2 = 0) := by
  obtain ⟨sh, q, hs, hq, hr, hb, hor, hu⟩ := roundUnits_form n hd
  have hr' : roundUnits n d = sh * 2 ^ 52 + q := by
    rw [hr] at hfin ⊢
    omega
  set D := d * 2 ^ sh with hDdef
  have hD : 0 < D := Nat.mul_pos hd (Nat.two_pow_pos sh)
  obtain ⟨a, b, t⟩ := rheDiv_spec n hD
  rw [← hq] at a b t
  have hU : magnitudeUnits (roundUnits n d) * d = D * q := by rw [hr', hu, hDdef]; ring
  have hUi : (magnitudeUnits (roundUnits n d) * d : Int) = (D * q : Nat) := by exact_mod_cast hU
  rw [hUi]
  by_cases hk : 2 ^ sh ∣ magnitudeUnits y
  · obtain ⟨k, hk⟩ := hk
    have hY : (magnitudeUnits y * d : Int) = (D * k : Nat) := by
      have : magnitudeUnits y * d = D * k := by rw [hk, hDdef]; ring
      exact_mod_cast this
    rw [hY]
    rcases Nat.lt_trichotomy k q with h | h | h
    · have h1 : D * (k + 1) ≤ D * q := Nat.mul_le_mul_left D h
      have e : D * (k + 1) = D * k + D := by ring
      refine ⟨by omega, fun heq hne => ?_⟩
      have := t (by omega)
      omega
    · subst h
      refine ⟨le_refl _, fun _ hne => ?_⟩
      refine absurd (magnitudeUnits_strictMono.injective ?_) hne
      have : magnitudeUnits y * d = magnitudeUnits (roundUnits n d) * d := by
        rw [hU]; exact_mod_cast hY
      exact Nat.eq_of_mul_eq_mul_right hd this
    · have h1 : D * (q + 1) ≤ D * k := Nat.mul_le_mul_left D h
      have e : D * (q + 1) = D * q + D := by ring
      refine ⟨by omega, fun heq hne => ?_⟩
      have := t (by omega)
      omega
  · have hsh : sh ≠ 0 := by rintro rfl; simp at hk
    obtain ⟨h52, hn⟩ := hor.resolve_left hsh
    obtain ⟨sh', q', hm', hq', hor', hu'⟩ := magnitude_form y
    have hlt : sh' < sh := by
      by_contra hge
      exact hk (hu' ▸ Dvd.dvd.mul_left (pow_dvd_pow 2 (by omega)) q')
    have hsmall : magnitudeUnits y < 2 ^ 52 * 2 ^ sh := by
      rw [hu']
      calc q' * 2 ^ sh' < 2 ^ 53 * 2 ^ sh' := Nat.mul_lt_mul_of_pos_right hq' (Nat.two_pow_pos sh')
        _ = 2 ^ 52 * 2 ^ (sh' + 1) := by rw [pow_succ]; ring
        _ ≤ 2 ^ 52 * 2 ^ sh := Nat.mul_le_mul_left _ (Nat.pow_le_pow_right (by decide) hlt)
    have hY : magnitudeUnits y * d < D * 2 ^ 52 := by
      calc magnitudeUnits y * d < 2 ^ 52 * 2 ^ sh * d := Nat.mul_lt_mul_of_pos_right hsmall hd
        _ = D * 2 ^ 52 := by rw [hDdef]; ring
    have hYi : (magnitudeUnits y * d : Int) < (D * 2 ^ 52 : Nat) := by exact_mod_cast hY
    have h1 : D * 2 ^ 52 ≤ D * q := Nat.mul_le_mul_left D h52
    have hn' : D * 2 ^ 52 ≤ n := by rw [Nat.mul_comm]; exact hn
    have key : (((D * q : Nat) : Int) - n).natAbs ≤ n - D * 2 ^ 52 := by
      rcases Nat.eq_or_lt_of_le h52 with h | h
      · rw [← h]; omega
      · have h2 : D * (2 ^ 52 + 1) ≤ D * q := Nat.mul_le_mul_left D h
        have e : D * (2 ^ 52 + 1) = D * 2 ^ 52 + D := by ring
        omega
    constructor
    · omega
    · intro heq; omega

end Sys2Proof.Machine
end

