-- ==== Sys2Proof/Laws/Binary64.lean ====
section
/-! SUPPORT. What the binary64 operations do on finite values: each is its exact result rounded once (00_scope.md R11). -/

namespace Sys2Proof.Machine

/-! ### Patterns -/

theorem infMagnitude_lt : infMagnitude < 2 ^ 63 := by decide

theorem f64Magnitude_lt (x : F64) : f64Magnitude x < 2 ^ 63 := Nat.mod_lt _ (by decide)

theorem f64Pack_toNat (neg : Bool) {m : Nat} (h : m < 2 ^ 63) :
    (f64Pack neg m).toNat = (if neg then 2 ^ 63 + m else m) := by
  unfold f64Pack
  rw [BitVec.toNat_ofNat]
  cases neg <;> simp <;> omega

@[simp] theorem f64Magnitude_pack (neg : Bool) {m : Nat} (h : m < 2 ^ 63) : f64Magnitude (f64Pack neg m) = m := by
  unfold f64Magnitude
  rw [f64Pack_toNat neg h]
  cases neg <;> simp <;> omega

@[simp] theorem f64Negative_pack (neg : Bool) {m : Nat} (h : m < 2 ^ 63) : f64Negative (f64Pack neg m) = neg := by
  unfold f64Negative
  rw [BitVec.msb_eq_decide, f64Pack_toNat neg h]
  cases neg <;> simp <;> omega

/-- A pattern is its sign and its magnitude. -/
theorem f64Pack_eta (x : F64) : f64Pack (f64Negative x) (f64Magnitude x) = x := by
  apply BitVec.eq_of_toNat_eq
  rw [f64Pack_toNat _ (f64Magnitude_lt x)]
  have hx := x.isLt
  unfold f64Negative f64Magnitude
  rw [BitVec.msb_eq_decide]
  by_cases h : 2 ^ (64 - 1) ≤ x.toNat
  · simp only [h, decide_true, if_true]; omega
  · simp only [h, decide_false]
    show x.toNat % 2 ^ 63 = x.toNat
    omega

theorem f64_eq_iff (x y : F64) : x = y ↔ f64Negative x = f64Negative y ∧ f64Magnitude x = f64Magnitude y :=
  ⟨fun h => h ▸ ⟨rfl, rfl⟩, fun ⟨h1, h2⟩ => by rw [← f64Pack_eta x, ← f64Pack_eta y, h1, h2]⟩

theorem isFinite_iff (x : F64) : f64IsFinite x = true ↔ f64Magnitude x < infMagnitude := by
  simp [f64IsFinite]

theorem isInf_iff (x : F64) : f64IsInf x = true ↔ f64Magnitude x = infMagnitude := by
  simp [f64IsInf]

theorem isNaN_iff (x : F64) : f64IsNaN x = true ↔ infMagnitude < f64Magnitude x := by
  simp [f64IsNaN]

theorem not_isNaN_of_finite {x : F64} (h : f64IsFinite x = true) : f64IsNaN x = false := by
  rw [isFinite_iff] at h
  simp [f64IsNaN]; omega

theorem not_isInf_of_finite {x : F64} (h : f64IsFinite x = true) : f64IsInf x = false := by
  rw [isFinite_iff] at h
  simp [f64IsInf]; omega

/-- Every pattern is finite, an infinity or a NaN. -/
theorem f64_class (x : F64) : f64IsFinite x = true ∨ f64IsInf x = true ∨ f64IsNaN x = true := by
  rw [isFinite_iff, isInf_iff, isNaN_iff]; omega

theorem f64Units_pack (neg : Bool) {m : Nat} (h : m < 2 ^ 63) :
    f64Units (f64Pack neg m) = if neg then -(magnitudeUnits m : Int) else magnitudeUnits m := by
  unfold f64Units
  rw [f64Negative_pack neg h, f64Magnitude_pack neg h]

theorem f64Units_natAbs (x : F64) : (f64Units x).natAbs = magnitudeUnits (f64Magnitude x) := by
  unfold f64Units
  split <;> simp

/-! ### Order -/

theorem magnitudeUnits_zero : magnitudeUnits 0 = 0 := by decide

theorem units_eq_zero_iff (x : F64) : f64Units x = 0 ↔ f64Magnitude x = 0 := by
  rw [← Int.natAbs_eq_zero, f64Units_natAbs]
  constructor
  · intro h
    exact magnitudeUnits_strictMono.injective (h.trans magnitudeUnits_zero.symm)
  · intro h
    rw [h, magnitudeUnits_zero]

/-- The key orders finite patterns as their values are ordered. -/
theorem key_lt_iff (x y : F64) : f64Key x < f64Key y ↔ f64Units x < f64Units y := by
  have h0 : ∀ m, 0 < magnitudeUnits m ↔ 0 < m := by
    intro m
    have := magnitudeUnits_strictMono.lt_iff_lt (a := 0) (b := m)
    rwa [magnitudeUnits_zero] at this
  have hm := magnitudeUnits_strictMono.lt_iff_lt (a := f64Magnitude x) (b := f64Magnitude y)
  have hm' := magnitudeUnits_strictMono.lt_iff_lt (a := f64Magnitude y) (b := f64Magnitude x)
  have hx := h0 (f64Magnitude x)
  have hy := h0 (f64Magnitude y)
  unfold f64Key f64Units
  cases f64Negative x <;> cases f64Negative y <;> simp <;> omega

theorem lt_iff_units {x y : F64} (hx : f64IsFinite x = true) (hy : f64IsFinite y = true) :
    f64Lt x y = true ↔ f64Units x < f64Units y := by
  simp [f64Lt, not_isNaN_of_finite hx, not_isNaN_of_finite hy, key_lt_iff]

theorem le_iff_units {x y : F64} (hx : f64IsFinite x = true) (hy : f64IsFinite y = true) :
    f64Le x y = true ↔ f64Units x ≤ f64Units y := by
  have := key_lt_iff y x
  simp only [f64Le, not_isNaN_of_finite hx, not_isNaN_of_finite hy, Bool.not_false, Bool.true_and,
    decide_eq_true_eq]
  omega

/-! ### Rounded results -/

theorem roundUnits_lt (n d : Nat) : roundUnits n d < 2 ^ 63 :=
  (roundUnits_le_inf n d).trans_lt infMagnitude_lt

/-- A packed rounding is finite or an infinity, never a NaN. -/
theorem pack_round_isNaN (neg : Bool) (n d : Nat) : f64IsNaN (f64Pack neg (roundUnits n d)) = false := by
  have := roundUnits_le_inf n d
  simp [f64IsNaN, f64Magnitude_pack neg (roundUnits_lt n d)]; omega

theorem pack_round_finite_iff (neg : Bool) (n d : Nat) :
    f64IsFinite (f64Pack neg (roundUnits n d)) = true ↔ roundUnits n d < infMagnitude := by
  rw [isFinite_iff, f64Magnitude_pack neg (roundUnits_lt n d)]

/-- From half a quantum above the largest finite value on, a packed rounding is the infinity of its sign (log entry 10). -/
theorem pack_round_overflow (neg : Bool) {n d : Nat} (hd : 0 < d) (h : d * ((2 ^ 54 - 1) * 2 ^ 2044) ≤ n) :
    f64Pack neg (roundUnits n d) = if neg then 0xFFF0000000000000#64 else 0x7FF0000000000000#64 := by
  rw [(roundUnits_eq_inf_iff n hd).mpr h]
  cases neg <;> decide

/-- Below that boundary it is finite. -/
theorem pack_round_finite (neg : Bool) {n d : Nat} (hd : 0 < d) (h : n < d * ((2 ^ 54 - 1) * 2 ^ 2044)) :
    f64IsFinite (f64Pack neg (roundUnits n d)) = true := by
  rw [pack_round_finite_iff]
  exact lt_of_le_of_ne (roundUnits_le_inf n d) fun h' => h.not_ge ((roundUnits_eq_inf_iff n hd).mp h')

theorem roundUnits_zero {d : Nat} (hd : 0 < d) : roundUnits 0 d = 0 := by
  have := roundUnits_exact 0 hd
  rwa [magnitudeUnits_zero, Nat.zero_mul] at this

/-- An integer of at most 53 bits converts exactly. -/
theorem roundUnits_integer {k : Nat} (hk : k ≤ 2 ^ 53) :
    ∃ m, m < infMagnitude ∧ roundUnits (k * unitsPerOne) 1 = m ∧ magnitudeUnits m = k * unitsPerOne := by
  have hform : ∃ m, magnitudeUnits m = k * unitsPerOne := by
    by_cases h0 : k = 0
    · exact ⟨0, by rw [h0, Nat.zero_mul, magnitudeUnits_zero]⟩
    · have hl : Nat.log2 k ≤ 53 := by
        have := (Nat.log2_lt h0 (k := 54)).mpr (by omega)
        omega
      have h1 : 2 ^ Nat.log2 k ≤ k := Nat.log2_self_le h0
      have h2 : k < 2 ^ (Nat.log2 k + 1) := Nat.lt_log2_self
      generalize Nat.log2 k = l at *
      by_cases hl53 : l = 53
      · subst hl53
        have hk' : k = 2 ^ 52 * 2 := by omega
        refine ⟨1075 * 2 ^ 52 + 2 ^ 52, ?_⟩
        rw [magnitudeUnits_scaled (by omega) (by omega), hk', unitsPerOne, pow_succ 2 1074]
        ring
      · refine ⟨(1074 + l - 52) * 2 ^ 52 + k * 2 ^ (52 - l), ?_⟩
        have hp : 2 ^ l * 2 ^ (52 - l) = 2 ^ 52 := by rw [← pow_add]; congr 1; omega
        have ha : 2 ^ 52 ≤ k * 2 ^ (52 - l) := by rw [← hp]; exact Nat.mul_le_mul_right _ h1
        have hb : k * 2 ^ (52 - l) ≤ 2 ^ 53 := by
          have h3 : 2 ^ (l + 1) * 2 ^ (52 - l) = 2 ^ 53 := by rw [← pow_add]; congr 1; omega
          rw [← h3]; exact Nat.mul_le_mul_right _ h2.le
        have he : 2 ^ (52 - l) * 2 ^ (1074 + l - 52) = unitsPerOne := by
          rw [← pow_add, unitsPerOne]; congr 1; omega
        rw [magnitudeUnits_scaled ha hb, ← he]
        ring
  obtain ⟨m, hm⟩ := hform
  have hlt : m < infMagnitude := by
    rw [← magnitudeUnits_strictMono.lt_iff_lt, hm]
    calc k * unitsPerOne ≤ 2 ^ 53 * unitsPerOne := Nat.mul_le_mul_right _ hk
      _ < magnitudeUnits infMagnitude := by decide +kernel
  refine ⟨m, hlt, ?_, hm⟩
  have := roundUnits_exact m (d := 1) (by decide)
  rw [Nat.mul_one, hm, Nat.min_eq_left hlt.le] at this
  exact this

/-- The pattern of `f64(k)` of an integer of at most 53 bits (00_scope.md R11). -/
theorem f64OfNat_form {k : Nat} (hk : k ≤ 2 ^ 53) :
    ∃ m, m < infMagnitude ∧ f64OfNat k = f64Pack false m ∧ magnitudeUnits m = k * unitsPerOne := by
  obtain ⟨m, hlt, hr, hm⟩ := roundUnits_integer hk
  exact ⟨m, hlt, by rw [f64OfNat, hr], hm⟩

theorem f64OfInt_form {k : Int} (hk : k.natAbs ≤ 2 ^ 53) :
    ∃ m, m < infMagnitude ∧ f64OfInt k = f64Pack (decide (k < 0)) m ∧ magnitudeUnits m = k.natAbs * unitsPerOne := by
  obtain ⟨m, hlt, hr, hm⟩ := roundUnits_integer hk
  exact ⟨m, hlt, by rw [f64OfInt, hr], hm⟩

/-! ### The four operations on finite values -/

theorem f64Neg_fields (x : F64) : f64Negative (f64Neg x) = !f64Negative x ∧ f64Magnitude (f64Neg x) = f64Magnitude x := by
  constructor
  · unfold f64Neg f64Negative
    rw [BitVec.msb_xor, show BitVec.msb (0x8000000000000000#64) = true by decide, Bool.xor_true]
  · unfold f64Neg f64Magnitude
    rw [← BitVec.toNat_setWidth, ← BitVec.toNat_setWidth, BitVec.setWidth_xor,
      show BitVec.setWidth 63 (0x8000000000000000#64) = 0#63 by decide, BitVec.xor_zero]

theorem f64Units_neg (x : F64) : f64Units (f64Neg x) = - f64Units x := by
  unfold f64Units
  rw [(f64Neg_fields x).1, (f64Neg_fields x).2]
  cases f64Negative x <;> simp

theorem f64IsFinite_neg (x : F64) : f64IsFinite (f64Neg x) = f64IsFinite x := by
  unfold f64IsFinite
  rw [(f64Neg_fields x).2]

/-- The sum of finite values: the exact sum rounded, up to the sign of a zero. -/
theorem f64Add_finite {x y : F64} (hx : f64IsFinite x = true) (hy : f64IsFinite y = true) :
    ∃ neg, f64Add x y = f64Pack neg (roundUnits (f64Units x + f64Units y).natAbs 1) ∧
      (f64Units x + f64Units y ≠ 0 → neg = decide (f64Units x + f64Units y < 0)) := by
  unfold f64Add
  simp only [not_isNaN_of_finite hx, not_isNaN_of_finite hy, not_isInf_of_finite hx, not_isInf_of_finite hy,
    Bool.or_self, Bool.false_eq_true, if_false]
  by_cases h : f64Units x + f64Units y = 0
  · rw [if_pos h, h]
    refine ⟨f64Negative x && f64Negative y, ?_, fun h' => absurd rfl h'⟩
    rw [Int.natAbs_zero, roundUnits_zero (by decide)]
  · rw [if_neg h]
    exact ⟨_, rfl, fun _ => rfl⟩

theorem f64Mul_finite {x y : F64} (hx : f64IsFinite x = true) (hy : f64IsFinite y = true) :
    f64Mul x y = f64Pack (f64Negative x != f64Negative y)
      (roundUnits (magnitudeUnits (f64Magnitude x) * magnitudeUnits (f64Magnitude y)) unitsPerOne) := by
  unfold f64Mul
  simp [not_isNaN_of_finite hx, not_isNaN_of_finite hy, not_isInf_of_finite hx, not_isInf_of_finite hy]

theorem f64Div_finite {x y : F64} (hx : f64IsFinite x = true) (hy : f64IsFinite y = true)
    (h0 : f64Magnitude y ≠ 0) :
    f64Div x y = f64Pack (f64Negative x != f64Negative y)
      (roundUnits (magnitudeUnits (f64Magnitude x) * unitsPerOne) (magnitudeUnits (f64Magnitude y))) := by
  unfold f64Div
  simp [not_isNaN_of_finite hx, not_isNaN_of_finite hy, not_isInf_of_finite hx, not_isInf_of_finite hy, h0]

end Sys2Proof.Machine
end

