-- ==== Sys2Proof/Laws/State.lean ====
section
/-! SUPPORT. What each named update of the state leaves in each field. -/

namespace Sys2Proof.Machine

/-! ### setErr -/

@[simp] theorem setErr_ctrl (m : BitVec 8) (s : State) : (setErr m s).ctrl = s.ctrl := rfl
@[simp] theorem setErr_wave (m : BitVec 8) (s : State) : (setErr m s).wave = s.wave := rfl
@[simp] theorem setErr_amplitude (m : BitVec 8) (s : State) : (setErr m s).amplitude = s.amplitude := rfl
@[simp] theorem setErr_frequencyHz (m : BitVec 8) (s : State) : (setErr m s).frequencyHz = s.frequencyHz := rfl
@[simp] theorem setErr_pulseWidth (m : BitVec 8) (s : State) : (setErr m s).pulseWidth = s.pulseWidth := rfl
@[simp] theorem setErr_cutoffHz (m : BitVec 8) (s : State) : (setErr m s).cutoffHz = s.cutoffHz := rfl
@[simp] theorem setErr_attackMs (m : BitVec 8) (s : State) : (setErr m s).attackMs = s.attackMs := rfl
@[simp] theorem setErr_decayMs (m : BitVec 8) (s : State) : (setErr m s).decayMs = s.decayMs := rfl
@[simp] theorem setErr_sustainLevel (m : BitVec 8) (s : State) : (setErr m s).sustainLevel = s.sustainLevel := rfl
@[simp] theorem setErr_releaseMs (m : BitVec 8) (s : State) : (setErr m s).releaseMs = s.releaseMs := rfl
@[simp] theorem setErr_sampleRateHz (m : BitVec 8) (s : State) : (setErr m s).sampleRateHz = s.sampleRateHz := rfl
@[simp] theorem setErr_durationMs (m : BitVec 8) (s : State) : (setErr m s).durationMs = s.durationMs := rfl
@[simp] theorem setErr_on (m : BitVec 8) (s : State) : (setErr m s).on = s.on := rfl
@[simp] theorem setErr_playBank (m : BitVec 8) (s : State) : (setErr m s).playBank = s.playBank := rfl
@[simp] theorem setErr_lastBank (m : BitVec 8) (s : State) : (setErr m s).lastBank = s.lastBank := rfl
@[simp] theorem setErr_lastValid (m : BitVec 8) (s : State) : (setErr m s).lastValid = s.lastValid := rfl
@[simp] theorem setErr_result (m : BitVec 8) (s : State) : (setErr m s).result = s.result := rfl
@[simp] theorem setErr_lastOp (m : BitVec 8) (s : State) : (setErr m s).lastOp = s.lastOp := rfl
@[simp] theorem setErr_err (m : BitVec 8) (s : State) : (setErr m s).err = s.err ||| m := rfl
@[simp] theorem setErr_bank0Len (m : BitVec 8) (s : State) : (setErr m s).bank0Len = s.bank0Len := rfl
@[simp] theorem setErr_bank1Len (m : BitVec 8) (s : State) : (setErr m s).bank1Len = s.bank1Len := rfl
@[simp] theorem setErr_filtWn (m : BitVec 8) (s : State) : (setErr m s).filtWn = s.filtWn := rfl
@[simp] theorem setErr_filtB0 (m : BitVec 8) (s : State) : (setErr m s).filtB0 = s.filtB0 := rfl
@[simp] theorem setErr_filtB1 (m : BitVec 8) (s : State) : (setErr m s).filtB1 = s.filtB1 := rfl
@[simp] theorem setErr_filtA1 (m : BitVec 8) (s : State) : (setErr m s).filtA1 = s.filtA1 := rfl
@[simp] theorem setErr_mem (m : BitVec 8) (s : State) : (setErr m s).mem = s.mem := rfl
@[simp] theorem setErr_inbox (m : BitVec 8) (s : State) : (setErr m s).inbox = s.inbox := rfl
@[simp] theorem setErr_reply (m : BitVec 8) (s : State) : (setErr m s).reply = s.reply := rfl
@[simp] theorem setErr_drawEpoch (m : BitVec 8) (s : State) : (setErr m s).drawEpoch = s.drawEpoch := rfl
@[simp] theorem setErr_sinkDraws (m : BitVec 8) (s : State) : (setErr m s).sinkDraws = s.sinkDraws := rfl

/-! ### clearErr -/

@[simp] theorem clearErr_ctrl (m : BitVec 8) (s : State) : (clearErr m s).ctrl = s.ctrl := rfl
@[simp] theorem clearErr_wave (m : BitVec 8) (s : State) : (clearErr m s).wave = s.wave := rfl
@[simp] theorem clearErr_amplitude (m : BitVec 8) (s : State) : (clearErr m s).amplitude = s.amplitude := rfl
@[simp] theorem clearErr_frequencyHz (m : BitVec 8) (s : State) : (clearErr m s).frequencyHz = s.frequencyHz := rfl
@[simp] theorem clearErr_pulseWidth (m : BitVec 8) (s : State) : (clearErr m s).pulseWidth = s.pulseWidth := rfl
@[simp] theorem clearErr_cutoffHz (m : BitVec 8) (s : State) : (clearErr m s).cutoffHz = s.cutoffHz := rfl
@[simp] theorem clearErr_attackMs (m : BitVec 8) (s : State) : (clearErr m s).attackMs = s.attackMs := rfl
@[simp] theorem clearErr_decayMs (m : BitVec 8) (s : State) : (clearErr m s).decayMs = s.decayMs := rfl
@[simp] theorem clearErr_sustainLevel (m : BitVec 8) (s : State) : (clearErr m s).sustainLevel = s.sustainLevel := rfl
@[simp] theorem clearErr_releaseMs (m : BitVec 8) (s : State) : (clearErr m s).releaseMs = s.releaseMs := rfl
@[simp] theorem clearErr_sampleRateHz (m : BitVec 8) (s : State) : (clearErr m s).sampleRateHz = s.sampleRateHz := rfl
@[simp] theorem clearErr_durationMs (m : BitVec 8) (s : State) : (clearErr m s).durationMs = s.durationMs := rfl
@[simp] theorem clearErr_on (m : BitVec 8) (s : State) : (clearErr m s).on = s.on := rfl
@[simp] theorem clearErr_playBank (m : BitVec 8) (s : State) : (clearErr m s).playBank = s.playBank := rfl
@[simp] theorem clearErr_lastBank (m : BitVec 8) (s : State) : (clearErr m s).lastBank = s.lastBank := rfl
@[simp] theorem clearErr_lastValid (m : BitVec 8) (s : State) : (clearErr m s).lastValid = s.lastValid := rfl
@[simp] theorem clearErr_result (m : BitVec 8) (s : State) : (clearErr m s).result = s.result := rfl
@[simp] theorem clearErr_lastOp (m : BitVec 8) (s : State) : (clearErr m s).lastOp = s.lastOp := rfl
@[simp] theorem clearErr_err (m : BitVec 8) (s : State) : (clearErr m s).err = s.err &&& ~~~m := rfl
@[simp] theorem clearErr_bank0Len (m : BitVec 8) (s : State) : (clearErr m s).bank0Len = s.bank0Len := rfl
@[simp] theorem clearErr_bank1Len (m : BitVec 8) (s : State) : (clearErr m s).bank1Len = s.bank1Len := rfl
@[simp] theorem clearErr_filtWn (m : BitVec 8) (s : State) : (clearErr m s).filtWn = s.filtWn := rfl
@[simp] theorem clearErr_filtB0 (m : BitVec 8) (s : State) : (clearErr m s).filtB0 = s.filtB0 := rfl
@[simp] theorem clearErr_filtB1 (m : BitVec 8) (s : State) : (clearErr m s).filtB1 = s.filtB1 := rfl
@[simp] theorem clearErr_filtA1 (m : BitVec 8) (s : State) : (clearErr m s).filtA1 = s.filtA1 := rfl
@[simp] theorem clearErr_mem (m : BitVec 8) (s : State) : (clearErr m s).mem = s.mem := rfl
@[simp] theorem clearErr_inbox (m : BitVec 8) (s : State) : (clearErr m s).inbox = s.inbox := rfl
@[simp] theorem clearErr_reply (m : BitVec 8) (s : State) : (clearErr m s).reply = s.reply := rfl
@[simp] theorem clearErr_drawEpoch (m : BitVec 8) (s : State) : (clearErr m s).drawEpoch = s.drawEpoch := rfl
@[simp] theorem clearErr_sinkDraws (m : BitVec 8) (s : State) : (clearErr m s).sinkDraws = s.sinkDraws := rfl

/-! ### badAccess -/

@[simp] theorem badAccess_ctrl (s : State) : (badAccess s).ctrl = s.ctrl := rfl
@[simp] theorem badAccess_wave (s : State) : (badAccess s).wave = s.wave := rfl
@[simp] theorem badAccess_amplitude (s : State) : (badAccess s).amplitude = s.amplitude := rfl
@[simp] theorem badAccess_frequencyHz (s : State) : (badAccess s).frequencyHz = s.frequencyHz := rfl
@[simp] theorem badAccess_pulseWidth (s : State) : (badAccess s).pulseWidth = s.pulseWidth := rfl
@[simp] theorem badAccess_cutoffHz (s : State) : (badAccess s).cutoffHz = s.cutoffHz := rfl
@[simp] theorem badAccess_attackMs (s : State) : (badAccess s).attackMs = s.attackMs := rfl
@[simp] theorem badAccess_decayMs (s : State) : (badAccess s).decayMs = s.decayMs := rfl
@[simp] theorem badAccess_sustainLevel (s : State) : (badAccess s).sustainLevel = s.sustainLevel := rfl
@[simp] theorem badAccess_releaseMs (s : State) : (badAccess s).releaseMs = s.releaseMs := rfl
@[simp] theorem badAccess_sampleRateHz (s : State) : (badAccess s).sampleRateHz = s.sampleRateHz := rfl
@[simp] theorem badAccess_durationMs (s : State) : (badAccess s).durationMs = s.durationMs := rfl
@[simp] theorem badAccess_on (s : State) : (badAccess s).on = s.on := rfl
@[simp] theorem badAccess_playBank (s : State) : (badAccess s).playBank = s.playBank := rfl
@[simp] theorem badAccess_lastBank (s : State) : (badAccess s).lastBank = s.lastBank := rfl
@[simp] theorem badAccess_lastValid (s : State) : (badAccess s).lastValid = s.lastValid := rfl
@[simp] theorem badAccess_result (s : State) : (badAccess s).result = s.result := rfl
@[simp] theorem badAccess_lastOp (s : State) : (badAccess s).lastOp = s.lastOp := rfl
@[simp] theorem badAccess_err (s : State) : (badAccess s).err = s.err ||| badAccessFlag := rfl
@[simp] theorem badAccess_bank0Len (s : State) : (badAccess s).bank0Len = s.bank0Len := rfl
@[simp] theorem badAccess_bank1Len (s : State) : (badAccess s).bank1Len = s.bank1Len := rfl
@[simp] theorem badAccess_filtWn (s : State) : (badAccess s).filtWn = s.filtWn := rfl
@[simp] theorem badAccess_filtB0 (s : State) : (badAccess s).filtB0 = s.filtB0 := rfl
@[simp] theorem badAccess_filtB1 (s : State) : (badAccess s).filtB1 = s.filtB1 := rfl
@[simp] theorem badAccess_filtA1 (s : State) : (badAccess s).filtA1 = s.filtA1 := rfl
@[simp] theorem badAccess_mem (s : State) : (badAccess s).mem = s.mem := rfl
@[simp] theorem badAccess_inbox (s : State) : (badAccess s).inbox = s.inbox := rfl
@[simp] theorem badAccess_reply (s : State) : (badAccess s).reply = s.reply := rfl
@[simp] theorem badAccess_drawEpoch (s : State) : (badAccess s).drawEpoch = s.drawEpoch := rfl
@[simp] theorem badAccess_sinkDraws (s : State) : (badAccess s).sinkDraws = s.sinkDraws := rfl

/-! ### epilogue -/

@[simp] theorem epilogue_ctrl (op : Byte) (c : ResultCode) (s : State) : (epilogue op c s).ctrl = s.ctrl := rfl
@[simp] theorem epilogue_wave (op : Byte) (c : ResultCode) (s : State) : (epilogue op c s).wave = s.wave := rfl
@[simp] theorem epilogue_amplitude (op : Byte) (c : ResultCode) (s : State) : (epilogue op c s).amplitude = s.amplitude := rfl
@[simp] theorem epilogue_frequencyHz (op : Byte) (c : ResultCode) (s : State) : (epilogue op c s).frequencyHz = s.frequencyHz := rfl
@[simp] theorem epilogue_pulseWidth (op : Byte) (c : ResultCode) (s : State) : (epilogue op c s).pulseWidth = s.pulseWidth := rfl
@[simp] theorem epilogue_cutoffHz (op : Byte) (c : ResultCode) (s : State) : (epilogue op c s).cutoffHz = s.cutoffHz := rfl
@[simp] theorem epilogue_attackMs (op : Byte) (c : ResultCode) (s : State) : (epilogue op c s).attackMs = s.attackMs := rfl
@[simp] theorem epilogue_decayMs (op : Byte) (c : ResultCode) (s : State) : (epilogue op c s).decayMs = s.decayMs := rfl
@[simp] theorem epilogue_sustainLevel (op : Byte) (c : ResultCode) (s : State) : (epilogue op c s).sustainLevel = s.sustainLevel := rfl
@[simp] theorem epilogue_releaseMs (op : Byte) (c : ResultCode) (s : State) : (epilogue op c s).releaseMs = s.releaseMs := rfl
@[simp] theorem epilogue_sampleRateHz (op : Byte) (c : ResultCode) (s : State) : (epilogue op c s).sampleRateHz = s.sampleRateHz := rfl
@[simp] theorem epilogue_durationMs (op : Byte) (c : ResultCode) (s : State) : (epilogue op c s).durationMs = s.durationMs := rfl
@[simp] theorem epilogue_on (op : Byte) (c : ResultCode) (s : State) : (epilogue op c s).on = s.on := rfl
@[simp] theorem epilogue_playBank (op : Byte) (c : ResultCode) (s : State) : (epilogue op c s).playBank = s.playBank := rfl
@[simp] theorem epilogue_lastBank (op : Byte) (c : ResultCode) (s : State) : (epilogue op c s).lastBank = s.lastBank := rfl
@[simp] theorem epilogue_lastValid (op : Byte) (c : ResultCode) (s : State) : (epilogue op c s).lastValid = s.lastValid := rfl
@[simp] theorem epilogue_result (op : Byte) (c : ResultCode) (s : State) : (epilogue op c s).result = c := rfl
@[simp] theorem epilogue_lastOp (op : Byte) (c : ResultCode) (s : State) : (epilogue op c s).lastOp = op := rfl
@[simp] theorem epilogue_err (op : Byte) (c : ResultCode) (s : State) : (epilogue op c s).err = s.err ||| c.errFlag := rfl
@[simp] theorem epilogue_bank0Len (op : Byte) (c : ResultCode) (s : State) : (epilogue op c s).bank0Len = s.bank0Len := rfl
@[simp] theorem epilogue_bank1Len (op : Byte) (c : ResultCode) (s : State) : (epilogue op c s).bank1Len = s.bank1Len := rfl
@[simp] theorem epilogue_filtWn (op : Byte) (c : ResultCode) (s : State) : (epilogue op c s).filtWn = s.filtWn := rfl
@[simp] theorem epilogue_filtB0 (op : Byte) (c : ResultCode) (s : State) : (epilogue op c s).filtB0 = s.filtB0 := rfl
@[simp] theorem epilogue_filtB1 (op : Byte) (c : ResultCode) (s : State) : (epilogue op c s).filtB1 = s.filtB1 := rfl
@[simp] theorem epilogue_filtA1 (op : Byte) (c : ResultCode) (s : State) : (epilogue op c s).filtA1 = s.filtA1 := rfl
@[simp] theorem epilogue_mem (op : Byte) (c : ResultCode) (s : State) : (epilogue op c s).mem = s.mem := rfl
@[simp] theorem epilogue_inbox (op : Byte) (c : ResultCode) (s : State) : (epilogue op c s).inbox = s.inbox := rfl
@[simp] theorem epilogue_reply (op : Byte) (c : ResultCode) (s : State) : (epilogue op c s).reply = s.reply := rfl
@[simp] theorem epilogue_drawEpoch (op : Byte) (c : ResultCode) (s : State) : (epilogue op c s).drawEpoch = s.drawEpoch := rfl
@[simp] theorem epilogue_sinkDraws (op : Byte) (c : ResultCode) (s : State) : (epilogue op c s).sinkDraws = s.sinkDraws := rfl

/-! ### raiseCmdError -/

@[simp] theorem raiseCmdError_ctrl (e : CmdError) (op : Byte) (s : State) : (raiseCmdError e op s).ctrl = s.ctrl := rfl
@[simp] theorem raiseCmdError_wave (e : CmdError) (op : Byte) (s : State) : (raiseCmdError e op s).wave = s.wave := rfl
@[simp] theorem raiseCmdError_amplitude (e : CmdError) (op : Byte) (s : State) : (raiseCmdError e op s).amplitude = s.amplitude := rfl
@[simp] theorem raiseCmdError_frequencyHz (e : CmdError) (op : Byte) (s : State) : (raiseCmdError e op s).frequencyHz = s.frequencyHz := rfl
@[simp] theorem raiseCmdError_pulseWidth (e : CmdError) (op : Byte) (s : State) : (raiseCmdError e op s).pulseWidth = s.pulseWidth := rfl
@[simp] theorem raiseCmdError_cutoffHz (e : CmdError) (op : Byte) (s : State) : (raiseCmdError e op s).cutoffHz = s.cutoffHz := rfl
@[simp] theorem raiseCmdError_attackMs (e : CmdError) (op : Byte) (s : State) : (raiseCmdError e op s).attackMs = s.attackMs := rfl
@[simp] theorem raiseCmdError_decayMs (e : CmdError) (op : Byte) (s : State) : (raiseCmdError e op s).decayMs = s.decayMs := rfl
@[simp] theorem raiseCmdError_sustainLevel (e : CmdError) (op : Byte) (s : State) : (raiseCmdError e op s).sustainLevel = s.sustainLevel := rfl
@[simp] theorem raiseCmdError_releaseMs (e : CmdError) (op : Byte) (s : State) : (raiseCmdError e op s).releaseMs = s.releaseMs := rfl
@[simp] theorem raiseCmdError_sampleRateHz (e : CmdError) (op : Byte) (s : State) : (raiseCmdError e op s).sampleRateHz = s.sampleRateHz := rfl
@[simp] theorem raiseCmdError_durationMs (e : CmdError) (op : Byte) (s : State) : (raiseCmdError e op s).durationMs = s.durationMs := rfl
@[simp] theorem raiseCmdError_on (e : CmdError) (op : Byte) (s : State) : (raiseCmdError e op s).on = s.on := rfl
@[simp] theorem raiseCmdError_playBank (e : CmdError) (op : Byte) (s : State) : (raiseCmdError e op s).playBank = s.playBank := rfl
@[simp] theorem raiseCmdError_lastBank (e : CmdError) (op : Byte) (s : State) : (raiseCmdError e op s).lastBank = s.lastBank := rfl
@[simp] theorem raiseCmdError_lastValid (e : CmdError) (op : Byte) (s : State) : (raiseCmdError e op s).lastValid = s.lastValid := rfl
@[simp] theorem raiseCmdError_result (e : CmdError) (op : Byte) (s : State) : (raiseCmdError e op s).result = e.result := rfl
@[simp] theorem raiseCmdError_lastOp (e : CmdError) (op : Byte) (s : State) : (raiseCmdError e op s).lastOp = op := rfl
@[simp] theorem raiseCmdError_err (e : CmdError) (op : Byte) (s : State) : (raiseCmdError e op s).err = s.err ||| e.result.errFlag := rfl
@[simp] theorem raiseCmdError_bank0Len (e : CmdError) (op : Byte) (s : State) : (raiseCmdError e op s).bank0Len = s.bank0Len := rfl
@[simp] theorem raiseCmdError_bank1Len (e : CmdError) (op : Byte) (s : State) : (raiseCmdError e op s).bank1Len = s.bank1Len := rfl
@[simp] theorem raiseCmdError_filtWn (e : CmdError) (op : Byte) (s : State) : (raiseCmdError e op s).filtWn = s.filtWn := rfl
@[simp] theorem raiseCmdError_filtB0 (e : CmdError) (op : Byte) (s : State) : (raiseCmdError e op s).filtB0 = s.filtB0 := rfl
@[simp] theorem raiseCmdError_filtB1 (e : CmdError) (op : Byte) (s : State) : (raiseCmdError e op s).filtB1 = s.filtB1 := rfl
@[simp] theorem raiseCmdError_filtA1 (e : CmdError) (op : Byte) (s : State) : (raiseCmdError e op s).filtA1 = s.filtA1 := rfl
@[simp] theorem raiseCmdError_mem (e : CmdError) (op : Byte) (s : State) : (raiseCmdError e op s).mem = s.mem := rfl
@[simp] theorem raiseCmdError_inbox (e : CmdError) (op : Byte) (s : State) : (raiseCmdError e op s).inbox = s.inbox := rfl
@[simp] theorem raiseCmdError_reply (e : CmdError) (op : Byte) (s : State) : (raiseCmdError e op s).reply = s.reply := rfl
@[simp] theorem raiseCmdError_drawEpoch (e : CmdError) (op : Byte) (s : State) : (raiseCmdError e op s).drawEpoch = s.drawEpoch := rfl
@[simp] theorem raiseCmdError_sinkDraws (e : CmdError) (op : Byte) (s : State) : (raiseCmdError e op s).sinkDraws = s.sinkDraws := rfl

/-! ### writeBank -/

@[simp] theorem writeBank_ctrl (b : Bank) (out : List Sample) (s : State) : (writeBank b out s).ctrl = s.ctrl := rfl
@[simp] theorem writeBank_wave (b : Bank) (out : List Sample) (s : State) : (writeBank b out s).wave = s.wave := rfl
@[simp] theorem writeBank_amplitude (b : Bank) (out : List Sample) (s : State) : (writeBank b out s).amplitude = s.amplitude := rfl
@[simp] theorem writeBank_frequencyHz (b : Bank) (out : List Sample) (s : State) : (writeBank b out s).frequencyHz = s.frequencyHz := rfl
@[simp] theorem writeBank_pulseWidth (b : Bank) (out : List Sample) (s : State) : (writeBank b out s).pulseWidth = s.pulseWidth := rfl
@[simp] theorem writeBank_cutoffHz (b : Bank) (out : List Sample) (s : State) : (writeBank b out s).cutoffHz = s.cutoffHz := rfl
@[simp] theorem writeBank_attackMs (b : Bank) (out : List Sample) (s : State) : (writeBank b out s).attackMs = s.attackMs := rfl
@[simp] theorem writeBank_decayMs (b : Bank) (out : List Sample) (s : State) : (writeBank b out s).decayMs = s.decayMs := rfl
@[simp] theorem writeBank_sustainLevel (b : Bank) (out : List Sample) (s : State) : (writeBank b out s).sustainLevel = s.sustainLevel := rfl
@[simp] theorem writeBank_releaseMs (b : Bank) (out : List Sample) (s : State) : (writeBank b out s).releaseMs = s.releaseMs := rfl
@[simp] theorem writeBank_sampleRateHz (b : Bank) (out : List Sample) (s : State) : (writeBank b out s).sampleRateHz = s.sampleRateHz := rfl
@[simp] theorem writeBank_durationMs (b : Bank) (out : List Sample) (s : State) : (writeBank b out s).durationMs = s.durationMs := rfl
@[simp] theorem writeBank_on (b : Bank) (out : List Sample) (s : State) : (writeBank b out s).on = s.on := rfl
@[simp] theorem writeBank_playBank (b : Bank) (out : List Sample) (s : State) : (writeBank b out s).playBank = s.playBank := rfl
@[simp] theorem writeBank_lastBank (b : Bank) (out : List Sample) (s : State) : (writeBank b out s).lastBank = s.lastBank := rfl
@[simp] theorem writeBank_lastValid (b : Bank) (out : List Sample) (s : State) : (writeBank b out s).lastValid = s.lastValid := rfl
@[simp] theorem writeBank_result (b : Bank) (out : List Sample) (s : State) : (writeBank b out s).result = s.result := rfl
@[simp] theorem writeBank_lastOp (b : Bank) (out : List Sample) (s : State) : (writeBank b out s).lastOp = s.lastOp := rfl
@[simp] theorem writeBank_err (b : Bank) (out : List Sample) (s : State) : (writeBank b out s).err = s.err := rfl
@[simp] theorem writeBank_bank0Len (b : Bank) (out : List Sample) (s : State) : (writeBank b out s).bank0Len = s.bank0Len := rfl
@[simp] theorem writeBank_bank1Len (b : Bank) (out : List Sample) (s : State) : (writeBank b out s).bank1Len = s.bank1Len := rfl
@[simp] theorem writeBank_filtWn (b : Bank) (out : List Sample) (s : State) : (writeBank b out s).filtWn = s.filtWn := rfl
@[simp] theorem writeBank_filtB0 (b : Bank) (out : List Sample) (s : State) : (writeBank b out s).filtB0 = s.filtB0 := rfl
@[simp] theorem writeBank_filtB1 (b : Bank) (out : List Sample) (s : State) : (writeBank b out s).filtB1 = s.filtB1 := rfl
@[simp] theorem writeBank_filtA1 (b : Bank) (out : List Sample) (s : State) : (writeBank b out s).filtA1 = s.filtA1 := rfl
@[simp] theorem writeBank_mem (b : Bank) (out : List Sample) (s : State) : (writeBank b out s).mem = memWrite s.mem b.base (samplesBytes out) := rfl
@[simp] theorem writeBank_inbox (b : Bank) (out : List Sample) (s : State) : (writeBank b out s).inbox = s.inbox := rfl
@[simp] theorem writeBank_reply (b : Bank) (out : List Sample) (s : State) : (writeBank b out s).reply = s.reply := rfl
@[simp] theorem writeBank_drawEpoch (b : Bank) (out : List Sample) (s : State) : (writeBank b out s).drawEpoch = s.drawEpoch := rfl
@[simp] theorem writeBank_sinkDraws (b : Bank) (out : List Sample) (s : State) : (writeBank b out s).sinkDraws = s.sinkDraws := rfl

/-! ### setBankLen -/

@[simp] theorem setBankLen_ctrl (b : Bank) (n : Nat) (s : State) : (setBankLen b n s).ctrl = s.ctrl := by cases b <;> rfl
@[simp] theorem setBankLen_wave (b : Bank) (n : Nat) (s : State) : (setBankLen b n s).wave = s.wave := by cases b <;> rfl
@[simp] theorem setBankLen_amplitude (b : Bank) (n : Nat) (s : State) : (setBankLen b n s).amplitude = s.amplitude := by cases b <;> rfl
@[simp] theorem setBankLen_frequencyHz (b : Bank) (n : Nat) (s : State) : (setBankLen b n s).frequencyHz = s.frequencyHz := by cases b <;> rfl
@[simp] theorem setBankLen_pulseWidth (b : Bank) (n : Nat) (s : State) : (setBankLen b n s).pulseWidth = s.pulseWidth := by cases b <;> rfl
@[simp] theorem setBankLen_cutoffHz (b : Bank) (n : Nat) (s : State) : (setBankLen b n s).cutoffHz = s.cutoffHz := by cases b <;> rfl
@[simp] theorem setBankLen_attackMs (b : Bank) (n : Nat) (s : State) : (setBankLen b n s).attackMs = s.attackMs := by cases b <;> rfl
@[simp] theorem setBankLen_decayMs (b : Bank) (n : Nat) (s : State) : (setBankLen b n s).decayMs = s.decayMs := by cases b <;> rfl
@[simp] theorem setBankLen_sustainLevel (b : Bank) (n : Nat) (s : State) : (setBankLen b n s).sustainLevel = s.sustainLevel := by cases b <;> rfl
@[simp] theorem setBankLen_releaseMs (b : Bank) (n : Nat) (s : State) : (setBankLen b n s).releaseMs = s.releaseMs := by cases b <;> rfl
@[simp] theorem setBankLen_sampleRateHz (b : Bank) (n : Nat) (s : State) : (setBankLen b n s).sampleRateHz = s.sampleRateHz := by cases b <;> rfl
@[simp] theorem setBankLen_durationMs (b : Bank) (n : Nat) (s : State) : (setBankLen b n s).durationMs = s.durationMs := by cases b <;> rfl
@[simp] theorem setBankLen_on (b : Bank) (n : Nat) (s : State) : (setBankLen b n s).on = s.on := by cases b <;> rfl
@[simp] theorem setBankLen_playBank (b : Bank) (n : Nat) (s : State) : (setBankLen b n s).playBank = s.playBank := by cases b <;> rfl
@[simp] theorem setBankLen_lastBank (b : Bank) (n : Nat) (s : State) : (setBankLen b n s).lastBank = s.lastBank := by cases b <;> rfl
@[simp] theorem setBankLen_lastValid (b : Bank) (n : Nat) (s : State) : (setBankLen b n s).lastValid = s.lastValid := by cases b <;> rfl
@[simp] theorem setBankLen_result (b : Bank) (n : Nat) (s : State) : (setBankLen b n s).result = s.result := by cases b <;> rfl
@[simp] theorem setBankLen_lastOp (b : Bank) (n : Nat) (s : State) : (setBankLen b n s).lastOp = s.lastOp := by cases b <;> rfl
@[simp] theorem setBankLen_err (b : Bank) (n : Nat) (s : State) : (setBankLen b n s).err = s.err := by cases b <;> rfl
@[simp] theorem setBankLen_bank0Len (b : Bank) (n : Nat) (s : State) : (setBankLen b n s).bank0Len = if b = .bank0 then BitVec.ofNat 32 n else s.bank0Len := by cases b <;> rfl
@[simp] theorem setBankLen_bank1Len (b : Bank) (n : Nat) (s : State) : (setBankLen b n s).bank1Len = if b = .bank1 then BitVec.ofNat 32 n else s.bank1Len := by cases b <;> rfl
@[simp] theorem setBankLen_filtWn (b : Bank) (n : Nat) (s : State) : (setBankLen b n s).filtWn = s.filtWn := by cases b <;> rfl
@[simp] theorem setBankLen_filtB0 (b : Bank) (n : Nat) (s : State) : (setBankLen b n s).filtB0 = s.filtB0 := by cases b <;> rfl
@[simp] theorem setBankLen_filtB1 (b : Bank) (n : Nat) (s : State) : (setBankLen b n s).filtB1 = s.filtB1 := by cases b <;> rfl
@[simp] theorem setBankLen_filtA1 (b : Bank) (n : Nat) (s : State) : (setBankLen b n s).filtA1 = s.filtA1 := by cases b <;> rfl
@[simp] theorem setBankLen_mem (b : Bank) (n : Nat) (s : State) : (setBankLen b n s).mem = s.mem := by cases b <;> rfl
@[simp] theorem setBankLen_inbox (b : Bank) (n : Nat) (s : State) : (setBankLen b n s).inbox = s.inbox := by cases b <;> rfl
@[simp] theorem setBankLen_reply (b : Bank) (n : Nat) (s : State) : (setBankLen b n s).reply = s.reply := by cases b <;> rfl
@[simp] theorem setBankLen_drawEpoch (b : Bank) (n : Nat) (s : State) : (setBankLen b n s).drawEpoch = s.drawEpoch := by cases b <;> rfl
@[simp] theorem setBankLen_sinkDraws (b : Bank) (n : Nat) (s : State) : (setBankLen b n s).sinkDraws = s.sinkDraws := by cases b <;> rfl

/-! ### setFilt -/

@[simp] theorem setFilt_ctrl (c : Option FilterCoeffs) (s : State) : (setFilt c s).ctrl = s.ctrl := by cases c <;> rfl
@[simp] theorem setFilt_wave (c : Option FilterCoeffs) (s : State) : (setFilt c s).wave = s.wave := by cases c <;> rfl
@[simp] theorem setFilt_amplitude (c : Option FilterCoeffs) (s : State) : (setFilt c s).amplitude = s.amplitude := by cases c <;> rfl
@[simp] theorem setFilt_frequencyHz (c : Option FilterCoeffs) (s : State) : (setFilt c s).frequencyHz = s.frequencyHz := by cases c <;> rfl
@[simp] theorem setFilt_pulseWidth (c : Option FilterCoeffs) (s : State) : (setFilt c s).pulseWidth = s.pulseWidth := by cases c <;> rfl
@[simp] theorem setFilt_cutoffHz (c : Option FilterCoeffs) (s : State) : (setFilt c s).cutoffHz = s.cutoffHz := by cases c <;> rfl
@[simp] theorem setFilt_attackMs (c : Option FilterCoeffs) (s : State) : (setFilt c s).attackMs = s.attackMs := by cases c <;> rfl
@[simp] theorem setFilt_decayMs (c : Option FilterCoeffs) (s : State) : (setFilt c s).decayMs = s.decayMs := by cases c <;> rfl
@[simp] theorem setFilt_sustainLevel (c : Option FilterCoeffs) (s : State) : (setFilt c s).sustainLevel = s.sustainLevel := by cases c <;> rfl
@[simp] theorem setFilt_releaseMs (c : Option FilterCoeffs) (s : State) : (setFilt c s).releaseMs = s.releaseMs := by cases c <;> rfl
@[simp] theorem setFilt_sampleRateHz (c : Option FilterCoeffs) (s : State) : (setFilt c s).sampleRateHz = s.sampleRateHz := by cases c <;> rfl
@[simp] theorem setFilt_durationMs (c : Option FilterCoeffs) (s : State) : (setFilt c s).durationMs = s.durationMs := by cases c <;> rfl
@[simp] theorem setFilt_on (c : Option FilterCoeffs) (s : State) : (setFilt c s).on = s.on := by cases c <;> rfl
@[simp] theorem setFilt_playBank (c : Option FilterCoeffs) (s : State) : (setFilt c s).playBank = s.playBank := by cases c <;> rfl
@[simp] theorem setFilt_lastBank (c : Option FilterCoeffs) (s : State) : (setFilt c s).lastBank = s.lastBank := by cases c <;> rfl
@[simp] theorem setFilt_lastValid (c : Option FilterCoeffs) (s : State) : (setFilt c s).lastValid = s.lastValid := by cases c <;> rfl
@[simp] theorem setFilt_result (c : Option FilterCoeffs) (s : State) : (setFilt c s).result = s.result := by cases c <;> rfl
@[simp] theorem setFilt_lastOp (c : Option FilterCoeffs) (s : State) : (setFilt c s).lastOp = s.lastOp := by cases c <;> rfl
@[simp] theorem setFilt_err (c : Option FilterCoeffs) (s : State) : (setFilt c s).err = s.err := by cases c <;> rfl
@[simp] theorem setFilt_bank0Len (c : Option FilterCoeffs) (s : State) : (setFilt c s).bank0Len = s.bank0Len := by cases c <;> rfl
@[simp] theorem setFilt_bank1Len (c : Option FilterCoeffs) (s : State) : (setFilt c s).bank1Len = s.bank1Len := by cases c <;> rfl
@[simp] theorem setFilt_filtWn (c : Option FilterCoeffs) (s : State) : (setFilt c s).filtWn = (match c with | some c => c.wn | none => s.filtWn) := by cases c <;> rfl
@[simp] theorem setFilt_filtB0 (c : Option FilterCoeffs) (s : State) : (setFilt c s).filtB0 = (match c with | some c => c.b0 | none => s.filtB0) := by cases c <;> rfl
@[simp] theorem setFilt_filtB1 (c : Option FilterCoeffs) (s : State) : (setFilt c s).filtB1 = (match c with | some c => c.b1 | none => s.filtB1) := by cases c <;> rfl
@[simp] theorem setFilt_filtA1 (c : Option FilterCoeffs) (s : State) : (setFilt c s).filtA1 = (match c with | some c => c.a1 | none => s.filtA1) := by cases c <;> rfl
@[simp] theorem setFilt_mem (c : Option FilterCoeffs) (s : State) : (setFilt c s).mem = s.mem := by cases c <;> rfl
@[simp] theorem setFilt_inbox (c : Option FilterCoeffs) (s : State) : (setFilt c s).inbox = s.inbox := by cases c <;> rfl
@[simp] theorem setFilt_reply (c : Option FilterCoeffs) (s : State) : (setFilt c s).reply = s.reply := by cases c <;> rfl
@[simp] theorem setFilt_drawEpoch (c : Option FilterCoeffs) (s : State) : (setFilt c s).drawEpoch = s.drawEpoch := by cases c <;> rfl
@[simp] theorem setFilt_sinkDraws (c : Option FilterCoeffs) (s : State) : (setFilt c s).sinkDraws = s.sinkDraws := by cases c <;> rfl

/-! ### commit -/

/-- The commit of a render as one update of the state (40_render_pipeline.md R120). -/
theorem commit_eq (tb : Bank) (r : Rendered) (s : State) : commit tb r s = { s with
    filtWn := (match r.coeffs with | some c => c.wn | none => s.filtWn)
    filtB0 := (match r.coeffs with | some c => c.b0 | none => s.filtB0)
    filtB1 := (match r.coeffs with | some c => c.b1 | none => s.filtB1)
    filtA1 := (match r.coeffs with | some c => c.a1 | none => s.filtA1)
    mem := memWrite s.mem tb.base (samplesBytes r.out)
    bank0Len := if tb = .bank0 then BitVec.ofNat 32 r.out.length else s.bank0Len
    bank1Len := if tb = .bank1 then BitVec.ofNat 32 r.out.length else s.bank1Len
    lastBank := tb
    lastValid := true
    err := if r.nan then s.err ||| nanSampleFlag else s.err } := by
  unfold commit; cases tb <;> cases hn : r.nan <;> cases hc : r.coeffs <;> rfl

@[simp] theorem commit_ctrl (tb : Bank) (r : Rendered) (s : State) : (commit tb r s).ctrl = s.ctrl := by rw [commit_eq]
@[simp] theorem commit_wave (tb : Bank) (r : Rendered) (s : State) : (commit tb r s).wave = s.wave := by rw [commit_eq]
@[simp] theorem commit_amplitude (tb : Bank) (r : Rendered) (s : State) : (commit tb r s).amplitude = s.amplitude := by rw [commit_eq]
@[simp] theorem commit_frequencyHz (tb : Bank) (r : Rendered) (s : State) : (commit tb r s).frequencyHz = s.frequencyHz := by rw [commit_eq]
@[simp] theorem commit_pulseWidth (tb : Bank) (r : Rendered) (s : State) : (commit tb r s).pulseWidth = s.pulseWidth := by rw [commit_eq]
@[simp] theorem commit_cutoffHz (tb : Bank) (r : Rendered) (s : State) : (commit tb r s).cutoffHz = s.cutoffHz := by rw [commit_eq]
@[simp] theorem commit_attackMs (tb : Bank) (r : Rendered) (s : State) : (commit tb r s).attackMs = s.attackMs := by rw [commit_eq]
@[simp] theorem commit_decayMs (tb : Bank) (r : Rendered) (s : State) : (commit tb r s).decayMs = s.decayMs := by rw [commit_eq]
@[simp] theorem commit_sustainLevel (tb : Bank) (r : Rendered) (s : State) : (commit tb r s).sustainLevel = s.sustainLevel := by rw [commit_eq]
@[simp] theorem commit_releaseMs (tb : Bank) (r : Rendered) (s : State) : (commit tb r s).releaseMs = s.releaseMs := by rw [commit_eq]
@[simp] theorem commit_sampleRateHz (tb : Bank) (r : Rendered) (s : State) : (commit tb r s).sampleRateHz = s.sampleRateHz := by rw [commit_eq]
@[simp] theorem commit_durationMs (tb : Bank) (r : Rendered) (s : State) : (commit tb r s).durationMs = s.durationMs := by rw [commit_eq]
@[simp] theorem commit_on (tb : Bank) (r : Rendered) (s : State) : (commit tb r s).on = s.on := by rw [commit_eq]
@[simp] theorem commit_playBank (tb : Bank) (r : Rendered) (s : State) : (commit tb r s).playBank = s.playBank := by rw [commit_eq]
@[simp] theorem commit_lastBank (tb : Bank) (r : Rendered) (s : State) : (commit tb r s).lastBank = tb := by rw [commit_eq]
@[simp] theorem commit_lastValid (tb : Bank) (r : Rendered) (s : State) : (commit tb r s).lastValid = true := by rw [commit_eq]
@[simp] theorem commit_result (tb : Bank) (r : Rendered) (s : State) : (commit tb r s).result = s.result := by rw [commit_eq]
@[simp] theorem commit_lastOp (tb : Bank) (r : Rendered) (s : State) : (commit tb r s).lastOp = s.lastOp := by rw [commit_eq]
@[simp] theorem commit_err (tb : Bank) (r : Rendered) (s : State) : (commit tb r s).err = if r.nan then s.err ||| nanSampleFlag else s.err := by rw [commit_eq]
@[simp] theorem commit_bank0Len (tb : Bank) (r : Rendered) (s : State) : (commit tb r s).bank0Len = if tb = .bank0 then BitVec.ofNat 32 r.out.length else s.bank0Len := by rw [commit_eq]
@[simp] theorem commit_bank1Len (tb : Bank) (r : Rendered) (s : State) : (commit tb r s).bank1Len = if tb = .bank1 then BitVec.ofNat 32 r.out.length else s.bank1Len := by rw [commit_eq]
@[simp] theorem commit_filtWn (tb : Bank) (r : Rendered) (s : State) : (commit tb r s).filtWn = (match r.coeffs with | some c => c.wn | none => s.filtWn) := by rw [commit_eq]
@[simp] theorem commit_filtB0 (tb : Bank) (r : Rendered) (s : State) : (commit tb r s).filtB0 = (match r.coeffs with | some c => c.b0 | none => s.filtB0) := by rw [commit_eq]
@[simp] theorem commit_filtB1 (tb : Bank) (r : Rendered) (s : State) : (commit tb r s).filtB1 = (match r.coeffs with | some c => c.b1 | none => s.filtB1) := by rw [commit_eq]
@[simp] theorem commit_filtA1 (tb : Bank) (r : Rendered) (s : State) : (commit tb r s).filtA1 = (match r.coeffs with | some c => c.a1 | none => s.filtA1) := by rw [commit_eq]
@[simp] theorem commit_mem (tb : Bank) (r : Rendered) (s : State) : (commit tb r s).mem = memWrite s.mem tb.base (samplesBytes r.out) := by rw [commit_eq]
@[simp] theorem commit_inbox (tb : Bank) (r : Rendered) (s : State) : (commit tb r s).inbox = s.inbox := by rw [commit_eq]
@[simp] theorem commit_reply (tb : Bank) (r : Rendered) (s : State) : (commit tb r s).reply = s.reply := by rw [commit_eq]
@[simp] theorem commit_drawEpoch (tb : Bank) (r : Rendered) (s : State) : (commit tb r s).drawEpoch = s.drawEpoch := by rw [commit_eq]
@[simp] theorem commit_sinkDraws (tb : Bank) (r : Rendered) (s : State) : (commit tb r s).sinkDraws = s.sinkDraws := by rw [commit_eq]

/-! ### platformReset -/

@[simp] theorem platformReset_ctrl (s : State) : (platformReset s).ctrl = 0 := rfl
@[simp] theorem platformReset_wave (s : State) : (platformReset s).wave = .sine := rfl
@[simp] theorem platformReset_amplitude (s : State) : (platformReset s).amplitude = 0 := rfl
@[simp] theorem platformReset_frequencyHz (s : State) : (platformReset s).frequencyHz = 0 := rfl
@[simp] theorem platformReset_pulseWidth (s : State) : (platformReset s).pulseWidth = 0 := rfl
@[simp] theorem platformReset_cutoffHz (s : State) : (platformReset s).cutoffHz = 0 := rfl
@[simp] theorem platformReset_attackMs (s : State) : (platformReset s).attackMs = 0 := rfl
@[simp] theorem platformReset_decayMs (s : State) : (platformReset s).decayMs = 0 := rfl
@[simp] theorem platformReset_sustainLevel (s : State) : (platformReset s).sustainLevel = 0 := rfl
@[simp] theorem platformReset_releaseMs (s : State) : (platformReset s).releaseMs = 0 := rfl
@[simp] theorem platformReset_sampleRateHz (s : State) : (platformReset s).sampleRateHz = 0 := rfl
@[simp] theorem platformReset_durationMs (s : State) : (platformReset s).durationMs = 0 := rfl
@[simp] theorem platformReset_on (s : State) : (platformReset s).on = false := rfl
@[simp] theorem platformReset_playBank (s : State) : (platformReset s).playBank = .bank0 := rfl
@[simp] theorem platformReset_lastBank (s : State) : (platformReset s).lastBank = .bank0 := rfl
@[simp] theorem platformReset_lastValid (s : State) : (platformReset s).lastValid = false := rfl
@[simp] theorem platformReset_result (s : State) : (platformReset s).result = .ok := rfl
@[simp] theorem platformReset_lastOp (s : State) : (platformReset s).lastOp = 0 := rfl
@[simp] theorem platformReset_err (s : State) : (platformReset s).err = 0 := rfl
@[simp] theorem platformReset_bank0Len (s : State) : (platformReset s).bank0Len = 0 := rfl
@[simp] theorem platformReset_bank1Len (s : State) : (platformReset s).bank1Len = 0 := rfl
@[simp] theorem platformReset_filtWn (s : State) : (platformReset s).filtWn = 0 := rfl
@[simp] theorem platformReset_filtB0 (s : State) : (platformReset s).filtB0 = 0 := rfl
@[simp] theorem platformReset_filtB1 (s : State) : (platformReset s).filtB1 = 0 := rfl
@[simp] theorem platformReset_filtA1 (s : State) : (platformReset s).filtA1 = 0 := rfl
@[simp] theorem platformReset_mem (s : State) : (platformReset s).mem = [] := rfl
@[simp] theorem platformReset_inbox (s : State) : (platformReset s).inbox = s.inbox := rfl
@[simp] theorem platformReset_reply (s : State) : (platformReset s).reply = .resetDone := rfl
@[simp] theorem platformReset_drawEpoch (s : State) : (platformReset s).drawEpoch = s.drawEpoch + 1 := rfl
@[simp] theorem platformReset_sinkDraws (s : State) : (platformReset s).sinkDraws = s.sinkDraws := rfl

/-! ### withCommandWord -/

@[simp] theorem withCommandWord_ctrl (w : Word64) (s : State) : (withCommandWord w s).ctrl = s.ctrl := rfl
@[simp] theorem withCommandWord_wave (w : Word64) (s : State) : (withCommandWord w s).wave = s.wave := rfl
@[simp] theorem withCommandWord_amplitude (w : Word64) (s : State) : (withCommandWord w s).amplitude = s.amplitude := rfl
@[simp] theorem withCommandWord_frequencyHz (w : Word64) (s : State) : (withCommandWord w s).frequencyHz = s.frequencyHz := rfl
@[simp] theorem withCommandWord_pulseWidth (w : Word64) (s : State) : (withCommandWord w s).pulseWidth = s.pulseWidth := rfl
@[simp] theorem withCommandWord_cutoffHz (w : Word64) (s : State) : (withCommandWord w s).cutoffHz = s.cutoffHz := rfl
@[simp] theorem withCommandWord_attackMs (w : Word64) (s : State) : (withCommandWord w s).attackMs = s.attackMs := rfl
@[simp] theorem withCommandWord_decayMs (w : Word64) (s : State) : (withCommandWord w s).decayMs = s.decayMs := rfl
@[simp] theorem withCommandWord_sustainLevel (w : Word64) (s : State) : (withCommandWord w s).sustainLevel = s.sustainLevel := rfl
@[simp] theorem withCommandWord_releaseMs (w : Word64) (s : State) : (withCommandWord w s).releaseMs = s.releaseMs := rfl
@[simp] theorem withCommandWord_sampleRateHz (w : Word64) (s : State) : (withCommandWord w s).sampleRateHz = s.sampleRateHz := rfl
@[simp] theorem withCommandWord_durationMs (w : Word64) (s : State) : (withCommandWord w s).durationMs = s.durationMs := rfl
@[simp] theorem withCommandWord_on (w : Word64) (s : State) : (withCommandWord w s).on = s.on := rfl
@[simp] theorem withCommandWord_playBank (w : Word64) (s : State) : (withCommandWord w s).playBank = s.playBank := rfl
@[simp] theorem withCommandWord_lastBank (w : Word64) (s : State) : (withCommandWord w s).lastBank = s.lastBank := rfl
@[simp] theorem withCommandWord_lastValid (w : Word64) (s : State) : (withCommandWord w s).lastValid = s.lastValid := rfl
@[simp] theorem withCommandWord_result (w : Word64) (s : State) : (withCommandWord w s).result = s.result := rfl
@[simp] theorem withCommandWord_lastOp (w : Word64) (s : State) : (withCommandWord w s).lastOp = s.lastOp := rfl
@[simp] theorem withCommandWord_err (w : Word64) (s : State) : (withCommandWord w s).err = s.err := rfl
@[simp] theorem withCommandWord_bank0Len (w : Word64) (s : State) : (withCommandWord w s).bank0Len = s.bank0Len := rfl
@[simp] theorem withCommandWord_bank1Len (w : Word64) (s : State) : (withCommandWord w s).bank1Len = s.bank1Len := rfl
@[simp] theorem withCommandWord_filtWn (w : Word64) (s : State) : (withCommandWord w s).filtWn = s.filtWn := rfl
@[simp] theorem withCommandWord_filtB0 (w : Word64) (s : State) : (withCommandWord w s).filtB0 = s.filtB0 := rfl
@[simp] theorem withCommandWord_filtB1 (w : Word64) (s : State) : (withCommandWord w s).filtB1 = s.filtB1 := rfl
@[simp] theorem withCommandWord_filtA1 (w : Word64) (s : State) : (withCommandWord w s).filtA1 = s.filtA1 := rfl
@[simp] theorem withCommandWord_mem (w : Word64) (s : State) : (withCommandWord w s).mem = s.mem := rfl
@[simp] theorem withCommandWord_inbox (w : Word64) (s : State) : (withCommandWord w s).inbox = .hostWrite 0x060 8 w :: s.inbox := rfl
@[simp] theorem withCommandWord_reply (w : Word64) (s : State) : (withCommandWord w s).reply = s.reply := rfl
@[simp] theorem withCommandWord_drawEpoch (w : Word64) (s : State) : (withCommandWord w s).drawEpoch = s.drawEpoch := rfl
@[simp] theorem withCommandWord_sinkDraws (w : Word64) (s : State) : (withCommandWord w s).sinkDraws = s.sinkDraws := rfl

end Sys2Proof.Machine
end

