-- ==== Sys2Proof/Laws/Bus.lean ====
section
/-! SUPPORT. Host accesses: which are legal, where their bytes lie, and everything a read, a write and an event can do. -/

namespace Sys2Proof.Machine

/-! ### Legality -/

/-- The register a legal access reaches is the one whose image holds its bytes (20_memory.md R63, R64). -/
theorem accessedReg?_cases (off : Offset) (n : Nat) :
    (∃ r, accessedReg? off n = some r ∧ RegisterAccess off n ∧ off.toNat / 8 = r.offset / 8) ∨
      (accessedReg? off n = none ∧ ¬ RegisterAccess off n) := by
  unfold accessedReg? RegisterAccess
  by_cases h : (n = 4 ∨ n = 8) ∧ off.toNat % n = 0
  · rw [if_pos h]
    by_cases h2 : off.toNat < 0x0B0
    · left
      have h22 : off.toNat / 8 < 22 := by omega
      unfold regAt?
      generalize off.toNat / 8 = k at *
      interval_cases k <;> exact ⟨_, rfl, ⟨h.1, h.2, h2⟩, rfl⟩
    · right
      refine ⟨?_, fun h' => h2 h'.2.2⟩
      unfold regAt?
      split <;> first | omega | rfl
  · exact .inr ⟨if_neg h, fun h' => h ⟨h'.1, h'.2.1⟩⟩

theorem reg_of_offset {r r' : Reg} (h : r.offset / 8 = r'.offset / 8) : r = r' := by
  revert h
  cases r <;> cases r' <;> decide

theorem accessedReg?_eq {off : Offset} {n : Nat} {r : Reg} (h : RegisterAccess off n)
    (hr : off.toNat / 8 = r.offset / 8) : accessedReg? off n = some r := by
  rcases accessedReg?_cases off n with ⟨r', h1, -, h3⟩ | ⟨-, h2⟩
  · rw [h1, reg_of_offset (h3.symm.trans hr)]
  · exact absurd h h2

theorem accessedReg?_none {off : Offset} {n : Nat} (h : ¬ RegisterAccess off n) : accessedReg? off n = none := by
  rcases accessedReg?_cases off n with ⟨r', -, h2, -⟩ | ⟨h1, -⟩
  · exact absurd h2 h
  · exact h1

/-- A bank read is legal exactly when every byte of it is mapped. -/
theorem legalBankRead_iff (off : Offset) (n : Nat) : legalBankRead off n = true ↔ ∃ b, BankAccess b off n := by
  have hb : ∀ b : Bank, (n = 2 ∨ n = 4 ∨ n = 8) → off.toNat % n = 0 →
      (inBank b off.toNat n = true ↔ BankAccess b off n) := by
    intro b hn hm
    unfold inBank BankAccess
    simp only [Bool.and_eq_true, decide_eq_true_eq]
    constructor
    · rintro ⟨h1, h2⟩
      exact ⟨hn, hm, fun k hk => ⟨by omega, by omega⟩⟩
    · rintro ⟨-, -, h⟩
      have h0 := h 0 (by omega)
      have h1 := h (n - 1) (by omega)
      omega
  unfold legalBankRead
  simp only [Bool.and_eq_true, Bool.or_eq_true, beq_iff_eq, or_assoc, and_assoc]
  constructor
  · rintro ⟨hn, hm, h | h⟩
    · exact ⟨_, (hb _ hn hm).mp h⟩
    · exact ⟨_, (hb _ hn hm).mp h⟩
  · rintro ⟨b, h⟩
    refine ⟨h.1, h.2.1, ?_⟩
    cases b
    · exact .inl ((hb _ h.1 h.2.1).mpr h)
    · exact .inr ((hb _ h.1 h.2.1).mpr h)

theorem bankAccess_not_register {b : Bank} {off : Offset} {n : Nat} (h : BankAccess b off n) :
    ¬ RegisterAccess off n := by
  obtain ⟨hn, -, hk⟩ := h
  have := hk 0 (by omega)
  rintro ⟨-, -, h'⟩
  cases b <;> simp [Bank.base] at this <;> omega

/-! ### Where the written bytes lie -/

theorem getLsbD_byteMask (n i : Nat) : (byteMask n).getLsbD i = (decide (i < 64) && decide (i < 8 * n)) := by
  unfold byteMask
  rw [BitVec.getLsbD_ofNat, Nat.testBit_two_pow_sub_one]

theorem getLsbD_placedData (off : Offset) (n : Nat) (v : Word64) (i : Nat) (hi : i < 64) :
    (placedData off n v).getLsbD i =
      (!decide (i < byteShift off) && (v.getLsbD (i - byteShift off) && decide (i - byteShift off < 8 * n))) := by
  unfold placedData
  rw [BitVec.getLsbD_shiftLeft, BitVec.getLsbD_and, getLsbD_byteMask]
  simp only [hi, decide_true, Bool.true_and, show i - byteShift off < 64 by omega]

theorem getLsbD_mergedImage (old : Word64) (off : Offset) (n : Nat) (v : Word64) (i : Nat) (hi : i < 64) :
    (mergedImage old off n v).getLsbD i =
      if byteShift off ≤ i ∧ i - byteShift off < 8 * n then v.getLsbD (i - byteShift off) else old.getLsbD i := by
  unfold mergedImage
  rw [BitVec.getLsbD_or, BitVec.getLsbD_and, BitVec.getLsbD_not, getLsbD_placedData _ _ _ _ hi,
    BitVec.getLsbD_shiftLeft, getLsbD_byteMask]
  by_cases h1 : i < byteShift off <;> by_cases h2 : i - byteShift off < 8 * n <;>
    simp [hi, h1, h2, show i - byteShift off < 64 by omega]

/-- The data of a write, by the low bits of its offset and its width (10_state.md R46, 30_encoding.md R94). -/
theorem placedData_eq (off : Offset) (v : Word64) :
    (off.toNat % 8 = 0 → placedData off 8 v = v) ∧
    (off.toNat % 8 = 0 → placedData off 4 v = (v.extractLsb' 0 32).setWidth 64) ∧
    (off.toNat % 8 = 4 → placedData off 4 v = (v.extractLsb' 0 32).setWidth 64 <<< 32) := by
  refine ⟨fun h => ?_, fun h => ?_, fun h => ?_⟩ <;> refine BitVec.eq_of_getLsbD_eq fun i hi => ?_ <;>
    rw [getLsbD_placedData _ _ _ _ hi, byteShift, h]
  · simp [show i < 8 * 8 by omega]
  · simp [hi, Bool.and_comm]
  · by_cases h1 : i < 32 <;> simp [h1, hi, Bool.and_comm]

theorem getLsbD_halves (hi lo : BitVec 32) (i : Nat) :
    BitVec.getLsbD (w := 64) (hi ++ lo) i = if i < 32 then lo.getLsbD i else hi.getLsbD (i - 32) :=
  BitVec.getLsbD_append

/-- The merged image of a write, by the low bits of its offset and its width (10_state.md R46). -/
theorem mergedImage_eq (old : Word64) (off : Offset) (v : Word64) :
    (off.toNat % 8 = 0 → mergedImage old off 8 v = v) ∧
    (off.toNat % 8 = 0 → mergedImage old off 4 v = old.extractLsb' 32 32 ++ v.extractLsb' 0 32) ∧
    (off.toNat % 8 = 4 → mergedImage old off 4 v = v.extractLsb' 0 32 ++ old.extractLsb' 0 32) := by
  refine ⟨fun h => ?_, fun h => ?_, fun h => ?_⟩ <;> refine BitVec.eq_of_getLsbD_eq fun i hi => ?_ <;>
    rw [getLsbD_mergedImage _ _ _ _ _ hi, byteShift, h]
  · simp [show i < 8 * 8 by omega]
  · by_cases h1 : i < 32
    · simp [getLsbD_halves, h1]
    · simp [getLsbD_halves, h1, show i - 32 < 32 by omega, show 32 + (i - 32) = i by omega]
  · by_cases h1 : i < 32
    · simp [getLsbD_halves, h1, show ¬ 32 ≤ i by omega]
    · simp [getLsbD_halves, h1, show 32 ≤ i by omega, show i - 32 < 32 by omega]

/-! ### What an event can do -/

/-- Everything a host read can do. -/
theorem hostRead_cases (off : Offset) (n : Nat) (s : State) :
    (∃ r, RegisterAccess off n ∧ off.toNat / 8 = r.offset / 8 ∧
      hostRead off n s = { s with reply := .hostData n (regBytes s r off n) }) ∨
    ((∃ b, BankAccess b off n) ∧ hostRead off n s = { s with reply := .hostData n (bankBytes s off n) }) ∨
    (¬ LegalRead off n ∧ hostRead off n s = { badAccess s with reply := .hostData n 0 }) := by
  unfold hostRead LegalRead
  rcases accessedReg?_cases off n with ⟨r, h1, h2, h3⟩ | ⟨h1, h2⟩
  · exact .inl ⟨r, h2, h3, by rw [h1]⟩
  · rw [h1]
    by_cases hb : legalBankRead off n = true
    · exact .inr (.inl ⟨(legalBankRead_iff off n).mp hb, by simp [hb]⟩)
    · exact .inr (.inr ⟨fun h => h.elim h2 fun h => hb ((legalBankRead_iff off n).mpr h), by simp [hb]⟩)

/-- Everything a host write can do. -/
theorem hostWrite_cases (off : Offset) (n : Nat) (v : Word64) (s : State) :
    (RegisterAccess off n ∧ off.toNat / 8 = 0x060 / 8 ∧ hostWrite off n v s = runWord (placedData off n v) s) ∨
    (∃ r, r ≠ .cmd ∧ RegisterAccess off n ∧ off.toNat / 8 = r.offset / 8 ∧
      hostWrite off n v s =
        .next (writeReg r (mergedImage (regImage s r) off n v) (placedData off n v) s)) ∨
    (¬ RegisterAccess off n ∧ hostWrite off n v s = .next (badAccess s)) := by
  unfold hostWrite
  rcases accessedReg?_cases off n with ⟨r, h1, h2, h3⟩ | ⟨h1, h2⟩
  · by_cases hc : r = .cmd
    · subst hc
      exact .inl ⟨h2, h3, by rw [h1]⟩
    · refine .inr (.inl ⟨r, hc, h2, h3, ?_⟩)
      rw [h1]
      cases r <;> first | rfl | exact absurd rfl hc
  · exact .inr (.inr ⟨h2, by rw [h1]⟩)

theorem hostWrite_reg {off : Offset} {n : Nat} {r : Reg} (h : RegisterAccess off n)
    (hr : off.toNat / 8 = r.offset / 8) (hc : r ≠ .cmd) (v : Word64) (s : State) :
    hostWrite off n v s = .next (writeReg r (mergedImage (regImage s r) off n v) (placedData off n v) s) := by
  rcases hostWrite_cases off n v s with ⟨-, h', -⟩ | ⟨r', -, -, h', e⟩ | ⟨h', -⟩
  · exact absurd (reg_of_offset (hr.symm.trans h' : r.offset / 8 = Reg.cmd.offset / 8)) hc
  · rw [e, reg_of_offset (h'.symm.trans hr)]
  · exact absurd h h'

theorem hostWrite_cmd {off : Offset} {n : Nat} (h : RegisterAccess off n) (hr : off.toNat / 8 = 0x060 / 8)
    (v : Word64) (s : State) : hostWrite off n v s = runWord (placedData off n v) s := by
  rcases hostWrite_cases off n v s with ⟨-, -, e⟩ | ⟨r', hc, -, h', -⟩ | ⟨h', -⟩
  · exact e
  · exact absurd (reg_of_offset (h'.symm.trans hr : r'.offset / 8 = Reg.cmd.offset / 8)) hc
  · exact absurd h h'

/-- A step on a state with one more event delivers that event. -/
@[simp] theorem step_withEvent (s : State) (e : Event) : step (s.withEvent e) = deliver e s := rfl

theorem step_hostWrite (s : State) (off : Offset) (n : Nat) (v : Word64) :
    step (s.withEvent (.hostWrite off n v)) = hostWrite off n v { s with reply := .writeDone } := rfl

/-- A legal write at 0x060 to 0x067 delivers its bytes in place, 0 elsewhere (30_encoding.md R94). -/
theorem step_cmdWrite {off : Offset} {n : Nat} (h : RegisterAccess off n) (hr : off.toNat / 8 = 0x060 / 8)
    (s : State) (v : Word64) :
    step (s.withEvent (.hostWrite off n v)) = runWord (placedData off n v) { s with reply := .writeDone } :=
  hostWrite_cmd h hr v _

end Sys2Proof.Machine
end

