-- ==== Sys2Proof/Laws/Memory.lean ====
section
/-! SUPPORT. The sample memory: a read after a write, and the canonical form every memory operation keeps. -/

namespace Sys2Proof.Machine

/-! ### Reading one byte -/

@[simp] theorem memByte?_nil (x : Nat) : memByte? [] x = none := rfl

theorem memByte?_cons (c : Host.Cell) (m : Memory) (x : Nat) :
    memByte? (c :: m) x = if c.1 = x then some c.2 else memByte? m x := rfl

theorem memByte?_append (m m' : Memory) (x : Nat) :
    memByte? (m ++ m') x = (memByte? m x).or (memByte? m' x) := by
  induction m with
  | nil => simp
  | cons c m ih =>
    simp only [List.cons_append, memByte?_cons]
    split
    · rfl
    · exact ih

theorem memByte?_filter (p : Nat → Bool) (m : Memory) (x : Nat) :
    memByte? (m.filter fun c => p c.1) x = if p x then memByte? m x else none := by
  induction m with
  | nil => simp
  | cons c m ih =>
    by_cases hx : c.1 = x
    · subst hx
      by_cases hp : p c.1 <;> simp [memByte?_cons, hp, ih]
    · by_cases hp : p c.1 <;> simp [memByte?_cons, hp, ih, hx]

theorem memByte?_cellsFrom (a : Nat) (bs : List Byte) (x : Nat) :
    memByte? (cellsFrom a bs) x = if a ≤ x then bs[x - a]? else none := by
  induction bs generalizing a with
  | nil => simp [cellsFrom]
  | cons b bs ih =>
    simp only [cellsFrom, memByte?_cons, ih]
    by_cases h : a = x
    · subst h; simp
    · by_cases hle : a + 1 ≤ x
      · have : x - a = (x - (a + 1)) + 1 := by omega
        simp [h, hle, this, show a ≤ x by omega]
      · simp [h, hle, show ¬ a ≤ x by omega]

/-- A byte read after a write: the byte written there, or what was read before. -/
theorem memByte?_memWrite (m : Memory) (a : Nat) (bs : List Byte) (x : Nat) :
    memByte? (memWrite m a bs) x
      = if a ≤ x ∧ x < a + bs.length then bs[x - a]? else memByte? m x := by
  unfold memWrite
  rw [memByte?_append, memByte?_append, memByte?_cellsFrom,
    memByte?_filter (fun k => decide (k < a)), memByte?_filter (fun k => decide (a + bs.length ≤ k))]
  by_cases h1 : x < a
  · simp [h1, show ¬ a ≤ x by omega, show ¬ a + bs.length ≤ x by omega]
  · by_cases h2 : x < a + bs.length
    · simp [h1, h2, show a ≤ x by omega, show ¬ a + bs.length ≤ x by omega]
    · have : bs[x - a]? = none := List.getElem?_eq_none (by omega)
      simp [h1, h2, show a ≤ x by omega, show a + bs.length ≤ x by omega, this]

/-! ### The canonical form -/

theorem wf_iff_pairwise (m : Memory) : Memory.wf m = true ↔ m.Pairwise fun c d => c.1 < d.1 := by
  induction m with
  | nil => simp [Memory.wf]
  | cons c m ih =>
    cases m with
    | nil => simp [Memory.wf]
    | cons d m =>
      simp only [Memory.wf, Bool.and_eq_true, decide_eq_true_eq, ih, List.pairwise_cons]
      constructor
      · rintro ⟨h, hd, hm⟩
        refine ⟨?_, hd, hm⟩
        intro e he
        rcases List.mem_cons.mp he with rfl | he
        · exact h
        · exact Nat.lt_trans h (hd e he)
      · rintro ⟨hc, hd, hm⟩
        exact ⟨hc d (List.mem_cons_self ..), hd, hm⟩

theorem mem_cellsFrom {a : Nat} {bs : List Byte} {c : Host.Cell} (h : c ∈ cellsFrom a bs) :
    a ≤ c.1 ∧ c.1 < a + bs.length := by
  induction bs generalizing a with
  | nil => simp [cellsFrom] at h
  | cons b bs ih =>
    rcases List.mem_cons.mp h with rfl | h
    · simp
    · have := ih h
      simp only [List.length_cons]
      omega

theorem pairwise_cellsFrom (a : Nat) (bs : List Byte) :
    (cellsFrom a bs).Pairwise fun c d => c.1 < d.1 := by
  induction bs generalizing a with
  | nil => simp [cellsFrom]
  | cons b bs ih =>
    refine List.pairwise_cons.mpr ⟨fun c hc => ?_, ih _⟩
    have := mem_cellsFrom hc
    show a < c.1
    omega

/-- Every memory operation keeps the canonical form: `memWrite` is the only one that changes the list. -/
theorem wf_memWrite {m : Memory} (h : Memory.wf m = true) (a : Nat) (bs : List Byte) :
    Memory.wf (memWrite m a bs) = true := by
  rw [wf_iff_pairwise] at h ⊢
  unfold memWrite
  refine List.pairwise_append.mpr ⟨List.pairwise_append.mpr ⟨h.filter _, pairwise_cellsFrom a bs, ?_⟩,
    h.filter _, ?_⟩
  · intro c hc d hd
    have h1 := (List.mem_filter.mp hc).2
    have h2 := mem_cellsFrom hd
    simp only [decide_eq_true_eq] at h1
    omega
  · intro c hc d hd
    have h2 := (List.mem_filter.mp hd).2
    simp only [decide_eq_true_eq] at h2
    rcases List.mem_append.mp hc with hc | hc
    · have h1 := (List.mem_filter.mp hc).2
      simp only [decide_eq_true_eq] at h1
      omega
    · have := mem_cellsFrom hc
      omega

/-- A cell of a written memory is a new one or an old one. -/
theorem mem_memWrite {m : Memory} {a : Nat} {bs : List Byte} {c : Host.Cell} (h : c ∈ memWrite m a bs) :
    (a ≤ c.1 ∧ c.1 < a + bs.length) ∨ c ∈ m := by
  unfold memWrite at h
  rcases List.mem_append.mp h with h | h
  · rcases List.mem_append.mp h with h | h
    · exact .inr (List.mem_of_mem_filter h)
    · exact .inl (mem_cellsFrom h)
  · exact .inr (List.mem_of_mem_filter h)

/-! ### Sample words -/

@[simp] theorem samplesBytes_length (vs : List Sample) : (samplesBytes vs).length = 2 * vs.length := by
  induction vs with
  | nil => rfl
  | cons v vs ih => simp [samplesBytes, sampleBytes, ih]; omega

/-- Byte `2 i` of a sequence of samples is the low byte of sample `i`, byte `2 i + 1` the high byte
(20_memory.md R68). -/
theorem samplesBytes_getElem? (vs : List Sample) (i : Nat) (h : i < vs.length) :
    (samplesBytes vs)[2 * i]? = some ((vs[i]).setWidth 8) ∧
      (samplesBytes vs)[2 * i + 1]? = some ((vs[i] >>> 8).setWidth 8) := by
  induction vs generalizing i with
  | nil => simp at h
  | cons v vs ih =>
    cases i with
    | zero => simp [samplesBytes, sampleBytes]
    | succ i =>
      have h' : i < vs.length := by simpa using h
      have e1 : 2 * (i + 1) = 2 * i + 2 := by omega
      have e2 : 2 * (i + 1) + 1 = 2 * i + 1 + 2 := by omega
      rw [e1]
      simpa [samplesBytes, sampleBytes] using ih i h'

theorem sample_halves (v : Sample) : ((v >>> 8).setWidth 8 : Byte) ++ (v.setWidth 8 : Byte) = v := by
  ext i hi
  simp only [BitVec.getElem_append, BitVec.getElem_setWidth, BitVec.getLsbD_ushiftRight]
  split
  · simp [BitVec.getLsbD_eq_getElem, hi]
  · have : 8 + (i - 8) = i := by omega
    simp [this, BitVec.getLsbD_eq_getElem, hi]

/-- The words of a bank after samples have been written to it: the sample written (40_render_pipeline.md R120). -/
theorem bankWord_writeBank (s : State) (b : Bank) (out : List Sample) (i : Nat) (h : i < out.length) :
    (writeBank b out s).bankWord b i = out[i] := by
  have hb := samplesBytes_getElem? out i h
  have e0 : wordOffset b i - b.base = 2 * i := by unfold wordOffset; omega
  have e1 : wordOffset b i + 1 - b.base = 2 * i + 1 := by unfold wordOffset; omega
  have r0 : b.base ≤ wordOffset b i ∧ wordOffset b i < b.base + (samplesBytes out).length := by
    unfold wordOffset; simp only [samplesBytes_length]; omega
  have r1 : b.base ≤ wordOffset b i + 1 ∧ wordOffset b i + 1 < b.base + (samplesBytes out).length := by
    unfold wordOffset; simp only [samplesBytes_length]; omega
  unfold State.bankWord State.byteAt writeBank
  simp only [memByte?_memWrite, r0, r1, e0, e1, and_self, if_true, hb.1, hb.2, Option.getD_some]
  exact sample_halves _

end Sys2Proof.Machine
end

