-- ==== Sys2Proof/Laws/Render.lean ====
section
/-! SUPPORT. What a render can do: its checks, its samples index by index, and its commit. -/

namespace Sys2Proof.Machine

/-! ### The checks -/

theorem valid_iff (P : Params) : P.valid = true ↔ ValidParams P := by
  constructor
  · intro h
    simp only [Params.valid, Bool.and_eq_true, bne_iff_ne, ne_eq] at h
    obtain ⟨⟨⟨⟨⟨⟨h1, h2⟩, h3⟩, h4⟩, h5⟩, h6⟩, h7⟩ := h
    exact ⟨h1, h2, h3, h4, h5, h6, h7⟩
  · rintro ⟨h1, h2, h3, h4, h5, h6, h7⟩
    simp [Params.valid, h1, h2, h3, h4, h5, h6, f64PosInf, h7]

/-- The coefficients `filterCoefficients` computes are the ones written out in Safety.lean (43_filter.md R183, R184). -/
theorem coeffsOfCorner_prewarp (P : Params) :
    coeffsOfCorner (normalizedCutoff P.cutoff P.sr) (prewarp (normalizedCutoff P.cutoff P.sr)) = derivedCoeffs P := rfl

/-- The filter's coefficients of a render: the derived ones, none with the filter off, or BAD_PARAM. -/
theorem renderCoeffs_cases (P : Params) :
    (ValidCutoff P ∧ renderCoeffs P = .ok (if P.filtEn then some (derivedCoeffs P) else none)) ∨
      (¬ ValidCutoff P ∧ renderCoeffs P = .error .badParam) := by
  unfold renderCoeffs ValidCutoff filterCoefficients
  cases P.filtEn <;> by_cases h : f64IsFinite P.cutoff = true <;>
    by_cases h' : f64Lt f64PosZero (normalizedCutoff P.cutoff P.sr) = true <;>
    simp [h, h', coeffsOfCorner_prewarp]

/-- The samples a render that passes its checks commits. -/
def renderResult (P : Params) : Rendered :=
  renderSamples P (if P.filtEn then some (derivedCoeffs P) else none)

/-- Everything `render` can answer. -/
theorem render_cases (P : Params) :
    (Renderable P ∧ render P = .ok (renderResult P)) ∨ ∃ e, RenderFails P e ∧ render P = .error e := by
  unfold render
  by_cases h0 : P.length = 0
  · exact .inr ⟨_, .zeroLength h0, by simp [h0]⟩
  by_cases hc : bufCapacity < P.length
  · exact .inr ⟨_, .overCapacity h0 hc, by simp [h0, hc]⟩
  have hc' : P.length ≤ bufCapacity := by omega
  by_cases hv : P.valid = true
  · have hv' := (valid_iff P).mp hv
    rcases renderCoeffs_cases P with ⟨hk, he⟩ | ⟨hk, he⟩
    · exact .inl ⟨⟨h0, hc', hv', hk⟩, by simp [h0, hc, hv, he, renderResult]⟩
    · exact .inr ⟨_, .cutoff h0 hc' hv' hk, by simp [h0, hc, hv, he]⟩
  · exact .inr ⟨_, .invalid h0 hc' (fun h => hv ((valid_iff P).mpr h)), by simp [h0, hc, hv]⟩

theorem render_of_renderable {P : Params} (h : Renderable P) : render P = .ok (renderResult P) := by
  rcases render_cases P with ⟨-, h'⟩ | ⟨e, he, -⟩
  · exact h'
  · cases he with
    | zeroLength h0 => exact absurd h0 h.nonempty
    | overCapacity _ hc => exact absurd h.fits (by omega)
    | invalid _ _ hv => exact absurd h.valid hv
    | cutoff _ _ _ hk => exact absurd h.cutoff hk

/-- A render fails with one code only (60_exceptions.md R235). -/
theorem RenderFails.unique {P : Params} {e e' : CmdError} (h : RenderFails P e) (h' : RenderFails P e') : e = e' := by
  cases h <;> cases h' <;> first | rfl | omega

theorem render_of_fails {P : Params} {e : CmdError} (h : RenderFails P e) : render P = .error e := by
  rcases render_cases P with ⟨hr, -⟩ | ⟨e', he, h'⟩
  · cases h with
    | zeroLength h0 => exact absurd h0 hr.nonempty
    | overCapacity _ hc => exact absurd hr.fits (by omega)
    | invalid _ _ hv => exact absurd hr.valid hv
    | cutoff _ _ _ hk => exact absurd hr.cutoff hk
  · rw [h', h.unique he]

/-! ### The samples -/

@[simp] theorem shapedSamples_length (P : Params) : (shapedSamples P).length = P.length := by
  simp [shapedSamples]

theorem shapedSamples_getElem? (P : Params) {i : Nat} (h : i < P.length) :
    (shapedSamples P)[i]? = some (conv16 (shapedValue P i)) := by
  simp [shapedSamples, h, shape16, shapedValue, scale16, Params.effSus]

@[simp] theorem filterFrom_length (c : FilterCoeffs) (xp yp : F64) (vs : List Sample) :
    (filterFrom c xp yp vs).length = vs.length := by
  induction vs generalizing xp yp with
  | nil => rfl
  | cons v vs ih => simp [filterFrom, ih]

/-- The first output of the filter, from its memory. -/
theorem filterFrom_zero (c : FilterCoeffs) (xp yp : F64) (vs : List Sample) {v : Sample} (h : vs[0]? = some v) :
    (filterFrom c xp yp vs)[0]? = some (filterStep c (f64OfInt v.toInt) xp yp) := by
  cases vs with
  | nil => simp at h
  | cons w vs => obtain rfl : w = v := by simpa using h
                 simp [filterFrom]

/-- Each later output of the filter, from the input and the output before it (43_filter.md R185). -/
theorem filterFrom_succ (c : FilterCoeffs) (xp yp : F64) (vs : List Sample) (n : Nat) {v w : Sample} {y : F64}
    (hv : vs[n]? = some v) (hw : vs[n + 1]? = some w) (hy : (filterFrom c xp yp vs)[n]? = some y) :
    (filterFrom c xp yp vs)[n + 1]? = some (filterStep c (f64OfInt w.toInt) (f64OfInt v.toInt) y) := by
  induction vs generalizing xp yp n with
  | nil => simp at hv
  | cons u vs ih =>
    cases n with
    | zero =>
      obtain rfl : u = v := by simpa using hv
      have hy' : filterStep c (f64OfInt u.toInt) xp yp = y := by simpa [filterFrom] using hy
      simp only [filterFrom, List.getElem?_cons_succ, hy']
      exact filterFrom_zero _ _ _ _ (by simpa using hw)
    | succ n =>
      simp only [filterFrom, List.getElem?_cons_succ] at hv hw hy ⊢
      exact ih _ _ n hv hw hy

/-- The filter's outputs of a render are the values of the difference equation. -/
theorem filterOut_getElem? (P : Params) {i : Nat} (h : i < P.length) :
    (filterOut (derivedCoeffs P) ((shapedSamples P).map Prod.fst))[i]? = some (filterValue P i) := by
  have hs : ∀ j, j < P.length →
      ((shapedSamples P).map Prod.fst)[j]? = some (conv16 (shapedValue P j)).1 := by
    intro j hj
    simp [List.getElem?_map, shapedSamples_getElem? P hj]
  induction i with
  | zero => exact filterFrom_zero _ _ _ _ (hs 0 h)
  | succ n ih => exact filterFrom_succ _ _ _ _ n (hs n (by omega)) (hs (n + 1) h) (ih (by omega))

theorem filterStage_length (c : Option FilterCoeffs) (s : List (Sample × Bool)) :
    (filterStage c s).length = s.length := by
  cases c <;> simp [filterStage, filterOut]

@[simp] theorem renderResult_length (P : Params) : (renderResult P).out.length = P.length := by
  simp [renderResult, renderSamples, filterStage_length]

/-- Element i of the filter stage of a render: its output converted, or the shaped sample passed on. -/
theorem filterStage_getElem? (P : Params) {i : Nat} (h : i < P.length) :
    (filterStage (if P.filtEn then some (derivedCoeffs P) else none) (shapedSamples P))[i]? =
      some (outputSample P i, P.filtEn && (conv16 (outputValue P i)).2) := by
  unfold outputSample outputValue filterStage
  cases hf : P.filtEn
  · simp [List.getElem?_map, shapedSamples_getElem? P h]
  · simp [List.getElem?_map, filterOut_getElem? P h]

/-- Sample i of a render. -/
theorem renderResult_getElem? (P : Params) {i : Nat} (h : i < P.length) :
    (renderResult P).out[i]? = some (outputSample P i) := by
  simp [renderResult, renderSamples, List.getElem?_map, filterStage_getElem? P h]

theorem conv16_snd (v : F64) : (conv16 v).2 = f64IsNaN v := by
  unfold conv16
  split <;> simp_all

/-- The NaN latch of a render. -/
theorem renderResult_nan (P : Params) : (renderResult P).nan = true ↔ MeetsNaN P := by
  simp only [renderResult, renderSamples, Bool.or_eq_true, List.any_eq_true]
  constructor
  · rintro (⟨v, hv, hn⟩ | ⟨v, hv, hn⟩)
    · obtain ⟨i, hi, rfl⟩ := List.getElem_of_mem hv
      have hi' : i < P.length := by simpa using hi
      have := shapedSamples_getElem? P hi'
      rw [List.getElem?_eq_getElem hi, Option.some_inj] at this
      rw [this, conv16_snd] at hn
      exact ⟨i, hi', .inl hn⟩
    · obtain ⟨i, hi, rfl⟩ := List.getElem_of_mem hv
      have hi' : i < P.length := by simpa [filterStage_length] using hi
      have := filterStage_getElem? P hi'
      rw [List.getElem?_eq_getElem hi, Option.some_inj] at this
      rw [this] at hn
      simp only [Bool.and_eq_true, conv16_snd] at hn
      exact ⟨i, hi', .inr hn.2⟩
  · rintro ⟨i, hi, hn⟩
    by_cases hf : P.filtEn = true
    · rcases hn with hn | hn
      · exact .inl ⟨_, List.mem_of_getElem? (shapedSamples_getElem? P hi), by rw [conv16_snd]; exact hn⟩
      · exact .inr ⟨_, List.mem_of_getElem? (filterStage_getElem? P hi), by simp [hf, conv16_snd, hn]⟩
    · have : outputValue P i = shapedValue P i := by simp [outputValue, hf]
      rw [this, or_self] at hn
      exact .inl ⟨_, List.mem_of_getElem? (shapedSamples_getElem? P hi), by rw [conv16_snd]; exact hn⟩

/-! ### The commit -/

/-- Everything `renderInto` can answer. -/
theorem renderInto_cases (tb : Bank) (s : State) :
    (Renderable (snapshot s) ∧ renderInto tb s = .ok (commit tb (renderResult (snapshot s)) s)) ∨
      ∃ e, RenderFails (snapshot s) e ∧ renderInto tb s = .error e := by
  unfold renderInto
  rcases render_cases (snapshot s) with ⟨h, hr⟩ | ⟨e, h, hr⟩
  · exact .inl ⟨h, by rw [hr]⟩
  · exact .inr ⟨e, h, by rw [hr]⟩

theorem bufCapacity_bounds : 48000 ≤ bufCapacity ∧ bufCapacity ≤ 2 ^ 21 := by
  have := Nat.mod_lt Config.capacityChoice (show 0 < 2 ^ 21 - 48000 + 1 by decide)
  unfold bufCapacity
  omega

/-- Words of two different banks lie in different bytes: a bank's mapped bytes end before the other's begin
(20_memory.md R62). -/
theorem bank_windows_disjoint {b b' : Bank} (h : b ≠ b') {a : Nat} (ha : b.base ≤ a ∧ a < b.base + 2 ^ 22) :
    ¬ (b'.base ≤ a ∧ a < b'.base + 2 * bufCapacity) := by
  have := bufCapacity_bounds
  cases b <;> cases b' <;> simp [Bank.base] at h ha ⊢ <;> omega

end Sys2Proof.Machine
end

