-- ==== Sys2Proof/Laws/Commands.lean ====
section
/-! SUPPORT. What a commit leaves, and everything a command, a delivered word and an event can do. -/

namespace Sys2Proof.Machine

/-! ### The commit -/

/-- A commit of a render that passes its checks has rendered into its bank, and leaves the fields that are each command's
own. -/
theorem commit_renderedInto {tb : Bank} {s : State} (h : Renderable (snapshot s)) :
    RenderedInto tb s (commit tb (renderResult (snapshot s)) s) := by
  have hcap := bufCapacity_bounds
  have hfit := h.fits
  have hlen := renderResult_length (snapshot s)
  have hmod : (snapshot s).length % 2 ^ 32 = (snapshot s).length := Nat.mod_eq_of_lt (by omega)
  have hco : (renderResult (snapshot s)).coeffs =
      if (snapshot s).filtEn then some (derivedCoeffs (snapshot s)) else none := rfl
  have hnan := renderResult_nan (snapshot s)
  rw [commit_eq, hlen, hco]
  refine ⟨?_, ?_, ?_, ?_, rfl, rfl, ?_, ?_, ?_, ?_, ⟨rfl, rfl, rfl, rfl, rfl, rfl, rfl, rfl, rfl, rfl, rfl, rfl⟩,
    ⟨rfl, rfl, rfl, rfl⟩⟩
  · intro i hi
    have hi' : i < (renderResult (snapshot s)).out.length := by omega
    have he := renderResult_getElem? (snapshot s) hi
    rw [List.getElem?_eq_getElem hi', Option.some_inj] at he
    exact (bankWord_writeBank s tb _ i hi').trans he
  · intro a ha
    have hm : memByte? (memWrite s.mem tb.base (samplesBytes (renderResult (snapshot s)).out)) a = memByte? s.mem a := by
      rw [memByte?_memWrite, if_neg (by rw [samplesBytes_length, hlen]; exact ha)]
    exact ⟨hm, by unfold State.byteAt; rw [hm]⟩
  · cases tb <;> simp [State.bankLen] <;> omega
  · cases tb <;> simp [State.bankLen, Bank.other]
  · intro hf; simp [hf]
  · intro hf; simp [hf]
  · intro hn; simp [hnan.mpr hn, nanSampleFlag]
  · intro hn; simp [Bool.eq_false_iff.mpr fun h' => hn (hnan.mp h')]

/-! ### Commands -/

/-- The register and flag a failing command leaves (60_exceptions.md R234). -/
theorem raiseCmdError_eq (e : CmdError) (op : Byte) (s : State) :
    raiseCmdError e op s = { s with result := e.result, lastOp := op, err := s.err ||| e.result.errFlag } := rfl

theorem epilogue_ok (op : Byte) (s : State) : epilogue op .ok s = { s with result := .ok, lastOp := op } := by
  unfold epilogue setErr ResultCode.errFlag
  simp

/-- The state each command's own part makes of a commit (44_commands.md R202 to R206). -/
def completed (i : Instr) (s : State) : State :=
  let c := commit s.playBank.other (renderResult (snapshot s)) s
  match i with
  | .nop => s
  | .render => c
  | .activate => { c with playBank := s.playBank.other, on := true }
  | .deactivate => { s with on := false }
  | .tick => { c with playBank := s.playBank.other }

/-- Which command completes in which states. -/
def Completes (i : Instr) (s : State) : Prop :=
  match i with
  | .nop => True
  | .render => Renderable (snapshot s)
  | .activate => s.on = false ∧ Renderable (snapshot s)
  | .deactivate => s.on = true
  | .tick => s.on = true ∧ Renderable (snapshot s)

/-- With which error a command fails (60_exceptions.md R235). -/
def CommandFails (i : Instr) (s : State) (e : CmdError) : Prop :=
  match i with
  | .nop => False
  | .render => RenderFails (snapshot s) e
  | .activate => (s.on = true ∧ e = .badState) ∨ (s.on = false ∧ RenderFails (snapshot s) e)
  | .deactivate => s.on = false ∧ e = .badState
  | .tick => (s.on = false ∧ e = .badState) ∨ (s.on = true ∧ RenderFails (snapshot s) e)

/-- Everything a command can do. -/
theorem exec_cases (i : Instr) (s : State) :
    (Completes i s ∧ exec i s = .next (epilogue i.opcode .ok (completed i s))) ∨
      ∃ e, CommandFails i s e ∧ exec i s = .next (raiseCmdError e i.opcode s) := by
  cases i with
  | nop => exact .inl ⟨trivial, rfl⟩
  | render =>
    show (_ ∧ execRender s = _) ∨ ∃ e, _ ∧ execRender s = _
    unfold execRender targetBank
    rcases renderInto_cases s.playBank.other s with ⟨h, hr⟩ | ⟨e, h, hr⟩
    · exact .inl ⟨h, by rw [hr]; rfl⟩
    · exact .inr ⟨e, h, by rw [hr]; rfl⟩
  | activate =>
    show (_ ∧ execActivate s = _) ∨ ∃ e, _ ∧ execActivate s = _
    unfold execActivate targetBank
    cases ho : s.on
    · rcases renderInto_cases s.playBank.other s with ⟨h, hr⟩ | ⟨e, h, hr⟩
      · exact .inl ⟨⟨ho, h⟩, by rw [hr]; rfl⟩
      · exact .inr ⟨e, .inr ⟨ho, h⟩, by rw [hr]; rfl⟩
    · exact .inr ⟨_, .inl ⟨ho, rfl⟩, rfl⟩
  | deactivate =>
    show (_ ∧ execDeactivate s = _) ∨ ∃ e, _ ∧ execDeactivate s = _
    unfold execDeactivate
    cases ho : s.on
    · exact .inr ⟨_, ⟨ho, rfl⟩, rfl⟩
    · exact .inl ⟨ho, rfl⟩
  | tick =>
    show (_ ∧ execTick s = _) ∨ ∃ e, _ ∧ execTick s = _
    unfold execTick targetBank
    cases ho : s.on
    · exact .inr ⟨_, .inl ⟨ho, rfl⟩, rfl⟩
    · rcases renderInto_cases s.playBank.other s with ⟨h, hr⟩ | ⟨e, h, hr⟩
      · exact .inl ⟨⟨ho, h⟩, by rw [hr]; rfl⟩
      · exact .inr ⟨e, .inr ⟨ho, h⟩, by rw [hr]; rfl⟩

/-- Everything a delivered word can do (44_commands.md R200, R201). -/
theorem runWord_cases (w : Word64) (s : State) :
    (∃ i, decode w = .ok i ∧ runWord w s = exec i s) ∨
      ((∀ i, decode w ≠ .ok i) ∧ runWord w s = .next (raiseCmdError .illegalCmd (opcodeField w) s)) := by
  unfold runWord
  cases h : decode w with
  | ok i => exact .inl ⟨i, rfl, rfl⟩
  | error e => exact .inr ⟨fun i h' => by simp at h', rfl⟩

/-- Everything a sink read can do (20_memory.md R76). -/
theorem sinkRead_cases (b : Bank) (i : Nat) (s : State) :
    ((s.on = true ∧ b = s.playBank ∧ i < s.playLen) ∧
      sinkRead b i s = { s with reply := .sinkData (s.bankWord b i) }) ∨
    (¬ (s.on = true ∧ b = s.playBank ∧ i < s.playLen) ∧
      sinkRead b i s =
        { s with reply := .sinkData (Config.sinkRaceSample s.sinkDraws), sinkDraws := s.sinkDraws + 1 }) := by
  have h : sinkReadDefined b i s = true ↔ s.on = true ∧ b = s.playBank ∧ i < s.playLen := by
    simp [sinkReadDefined, State.playValid, and_assoc]
  unfold sinkRead
  by_cases hd : sinkReadDefined b i s = true
  · exact .inl ⟨h.mp hd, if_pos hd⟩
  · exact .inr ⟨fun h' => hd (h.mpr h'), if_neg hd⟩

end Sys2Proof.Machine
end

