-- ==== Sys2Proof/Laws/PerInstr.lean ====
section
/-! SUPPORT. What is said of every command as syntax, command by command. -/

namespace Sys2Proof.Laws.CommandWord

/-- The command's word is legal, its opcode field is the command's opcode in the range of the opcode map, and the
decoder reads the command from the row of the table with that word (30_encoding.md R90 to R92). -/
def Statement (i : Instr) : Prop :=
  legalWord (encode i) = true ∧ opcodeField (encode i) = i.opcode ∧ i.opcode.toNat ≤ 4 ∧
    decodeTableWord 64 (encode i).toNat = some i

theorem nop : Statement .nop := ⟨by decide, by decide, by decide, by decide⟩
theorem render : Statement .render := ⟨by decide, by decide, by decide, by decide⟩
theorem activate : Statement .activate := ⟨by decide, by decide, by decide, by decide⟩
theorem deactivate : Statement .deactivate := ⟨by decide, by decide, by decide, by decide⟩
theorem tick : Statement .tick := ⟨by decide, by decide, by decide, by decide⟩

end Sys2Proof.Laws.CommandWord
end

