-- ==== Sys2Proof/Tests/Slice0.lean ====
section
/-! SUPPORT. Tests on fixed values from spec/95_test_vectors.md (each names its vector), and a witness that meets the
hypotheses of each statement that has any. -/

namespace Sys2Proof.Machine

-- One kernel check at a time, so that the checks do not each hold a thread.
set_option Elab.async false

/-! ### States and helpers -/

/-- Setting S8 with WAVE = Square: N = 8 (95_test_vectors.md section 0). -/
def testGood : State := { State.reset with
  sampleRateHz := 8192, durationMs := 1, amplitude := f64One, frequencyHz := 0x4090000000000000#64,
  sustainLevel := f64One, wave := .square }

/-- Setting S8 at SAMPLE_RATE_HZ = 2048: N = 2. -/
def testShort : State := { testGood with sampleRateHz := 2048 }

/-- Setting S8 with DURATION_MS = 0. -/
def testBad : State := { testGood with durationMs := 0 }

/-- Setting S8 at SAMPLE_RATE_HZ = 2048, filtered at CUTOFF_HZ = 2048.0: the normalized cutoff is clamped. -/
def testFiltered : State := { testShort with ctrl := 1, cutoffHz := 0x40A0000000000000#64 }

/-- A block that plays a one-sample buffer from bank 1. -/
def testPlaying : State := { testShort with
  on := true, playBank := .bank1, lastBank := .bank1, lastValid := true, bank1Len := 1,
  mem := [(0x800000, 0x34), (0x800001, 0x12)], filtWn := f64Half, filtB0 := f64Half, filtB1 := f64Half }

/-- The state after one event. -/
def testAfter (s : State) (e : Event) : State :=
  match step (s.withEvent e) with
  | .next t => t
  | _ => s

/-- Whether one event leads to a next state. -/
def testAnswersNext (s : State) (e : Event) : Bool :=
  match step (s.withEvent e) with
  | .next _ => true
  | _ => false

/-- The 64-bit write of a command word. -/
def testCmd (w : Word64) : Event := .hostWrite 0x060 8 w

/-! ### Well-formedness and decoding -/

/-- The MBZ check refuses 0x105, whose opcode field is assigned or not alike (V-CMD-16, V-CMD-17). -/
theorem test_mbz_check_refuses : mbzClear 0x105#64 = false ∧ mbzClear 0x10002#64 = false ∧ mbzClear 0xFF#64 = true := by
  decide

/-- The opcode check refuses 0x05 and 0xFF and passes 0x04 (V-CMD-18). -/
theorem test_opcode_check_refuses :
    opcodeAssigned 0x05#64 = false ∧ opcodeAssigned 0xFF#64 = false ∧ opcodeAssigned 0x04#64 = true := by
  decide

/-- A word is legal only if both checks pass. -/
theorem test_illegal_words :
    legalWord 0x104#64 = false ∧ legalWord 0x05#64 = false ∧ legalWord 0x0000000100000000#64 = false ∧
      legalWord 0x04#64 = true := by
  decide

/-- The decoder names what it turns away. -/
theorem test_decoder_rejects_by_name :
    decode 0x104#64 = .error .mbzNotZero ∧ decode 0x05#64 = .error .reservedOpcode ∧
      decodeBytes [0x01, 0x00, 0x00, 0x00] = .error .wrongLength := ⟨rfl, rfl, rfl⟩

/-- 30_encoding.md R91: OPCODE 0x00, MBZ zero. -/
theorem test_decode_nop : decodeTableWord 64 0x0000000000000000 = some .nop := by decide
/-- 30_encoding.md R91: OPCODE 0x01, MBZ zero. -/
theorem test_decode_render : decodeTableWord 64 0x0000000000000001 = some .render := by decide
/-- 30_encoding.md R91: OPCODE 0x02, MBZ zero. -/
theorem test_decode_activate : decodeTableWord 64 0x0000000000000002 = some .activate := by decide
/-- 30_encoding.md R91: OPCODE 0x03, MBZ zero. -/
theorem test_decode_deactivate : decodeTableWord 64 0x0000000000000003 = some .deactivate := by decide
/-- 30_encoding.md R91: OPCODE 0x04, MBZ zero, as the bytes lie on the bus. -/
theorem test_decode_tick :
    decodeTableWord 64 0x0000000000000004 = some .tick ∧ decodeBytes [0x04, 0, 0, 0, 0, 0, 0, 0] = .ok .tick := by
  decide

/-! ### Commands -/

/-- V-CMD-1 and V-CMD-20: NOP clears RESULT, and ERR stays. -/
theorem test_nop :
    statusImage (testAfter { State.reset with result := .zeroLength, lastOp := 1, err := 1 } (testCmd 0)) = 0 ∧
      (testAfter { State.reset with result := .zeroLength, lastOp := 1, err := 1 } (testCmd 0)).err = 1 := by
  decide

/-- V-CMD-2 with V-OSC-5: the words of bank 1, its length and STATUS. -/
theorem test_render_square :
    let t := testAfter testGood (testCmd 1)
    statusImage t = 0x1000C#64 ∧ t.bank1Len = 8 ∧ t.bankWord .bank1 3 = 0 ∧ t.bankWord .bank1 4 = 32767 ∧ t.err = 0 := by
  decide +kernel

/-- V-CMD-3 and V-CHK-7: a render of no samples. -/
theorem test_render_zero_length :
    let t := testAfter { testBad with amplitude := f64NaN } (testCmd 1)
    statusImage t = 0x10100#64 ∧ t.err = 0x01 ∧ t.mem = [] := by
  decide +kernel

/-- V-CMD-4: ACTIVATE from reset. -/
theorem test_activate : statusImage (testAfter testShort (testCmd 2)) = 0x2000F#64 := by decide +kernel

/-- V-CMD-11: ACTIVATE in On. -/
theorem test_activate_in_on :
    statusImage (testAfter testPlaying (testCmd 2)) = 0x2040F#64 ∧ (testAfter testPlaying (testCmd 2)).err = 0x08 := by
  decide +kernel

/-- V-CMD-6 and V-CMD-12: DEACTIVATE in Off and in On. -/
theorem test_deactivate :
    statusImage (testAfter State.reset (testCmd 3)) = 0x30400#64 ∧
      statusImage (testAfter testPlaying (testCmd 3)) = 0x3000E#64 := by
  decide +kernel

/-- V-CMD-10: TICK swaps to bank 0. -/
theorem test_tick : statusImage (testAfter testPlaying (testCmd 4)) = 0x40009#64 := by decide +kernel

/-- V-CMD-15: BAD_STATE outranks ZERO_LENGTH. -/
theorem test_tick_in_off :
    statusImage (testAfter testBad (testCmd 4)) = 0x40400#64 ∧ (testAfter testBad (testCmd 4)).err = 0x08 := by
  decide +kernel

/-- V-CMD-16 and V-CMD-19: illegal words. -/
theorem test_illegal_commands :
    statusImage (testAfter State.reset (testCmd 0x105)) = 0x50500#64 ∧
      statusImage (testAfter State.reset (testCmd 0x0000000100000000)) = 0x500#64 := by
  decide

/-! ### Bus accesses -/

/-- V-BUS-4 and V-BUS-6: illegal reads. -/
theorem test_illegal_reads :
    (testAfter State.reset (.hostRead 0x000 2)).err = 0x80 ∧ (testAfter State.reset (.hostRead 0x004 8)).err = 0x80 ∧
      (testAfter State.reset (.hostRead 0x004 8)).reply = .hostData 8 0 := by
  decide +kernel

/-- V-BUS-12 and V-BUS-13: WAVE refuses 7 and drops reserved bits. -/
theorem test_wave_writes :
    (testAfter State.reset (.hostWrite 0x008 8 7)).err = 0x20 ∧
      regImage (testAfter State.reset (.hostWrite 0x008 8 0x103)) .wave = 3 := by
  decide

/-- V-BUS-16: two 32-bit writes form FREQUENCY_HZ. -/
theorem test_split_write :
    (testAfter (testAfter State.reset (.hostWrite 0x018 4 0)) (.hostWrite 0x01C 4 0x40900000)).frequencyHz =
      0x4090000000000000#64 := by
  decide

/-- V-BUS-20 and V-BUS-21: ERR is write-one-to-clear. -/
theorem test_err_writes :
    (testAfter { State.reset with err := 0xFF } (.hostWrite 0x074 4 0xFF)).err = 0xFF ∧
      (testAfter { State.reset with err := 0xFF } (.hostWrite 0x070 8 0x0F)).err = 0xF0 := by
  decide

/-- 20_memory.md R68 (V-BUS-23's byte order): bits 7:0 of a word stand at the lower offset. -/
theorem test_bank_read :
    (testAfter { State.reset with mem := [(0x400000, 0x34), (0x400001, 0x12)] } (.hostRead 0x400000 2)).reply =
      .hostData 2 0x1234#64 := by
  decide +kernel

/-! ### Binary64 and the stages -/

/-- 0.1 + 0.2 and 1.0 / 3.0, rounded (hand calculation from 00_scope.md R11). -/
theorem test_arithmetic :
    f64Add 0x3FB999999999999A#64 0x3FC999999999999A#64 = 0x3FD3333333333334#64 ∧
      f64Div f64One 0x4008000000000000#64 = 0x3FD5555555555555#64 := by
  decide +kernel

/-- V-CONV-1, V-CONV-5, V-CONV-9 and V-CONV-12. -/
theorem test_conv16 :
    conv16 0x40DFFFBF5C28F5C3#64 = (32766#16, false) ∧ conv16 0xBFE6666666666666#64 = (0, false) ∧
      conv16 0xC0E0001000000000#64 = (-32768#16, false) ∧ conv16 f64NaN = (0, true) := by
  decide +kernel

/-- V-SEG-1, V-SEG-5, V-SEG-6, V-SEG-8 and V-SEG-9. -/
theorem test_segment_counts :
    segCount 0x4024000000000000#64 44100 = 441 ∧ segCount f64Half 1000 = 0 ∧
      segCount 0x3FF8000000000000#64 1000 = 2 ∧ segCount 0xC008000000000000#64 1000 = 0 ∧
      segCount 0x7E37E43C8800759C#64 44100 = 4503599627370496 := by
  decide +kernel

/-- V-ENV-3 at indices 1, 5, 6 and 11. -/
theorem test_envelope :
    shape16 f64One (envelope 1 12 8 4 6 f64Half) = (4681#16, false) ∧
      shape16 f64One (envelope 5 12 8 4 6 f64Half) = (23404#16, false) ∧
      shape16 f64One (envelope 6 12 8 4 6 f64Half) = (16383#16, false) ∧
      shape16 f64One (envelope 11 12 8 4 6 f64Half) = (0#16, false) := by
  decide +kernel

/-- V-OSC-4 at index 4, V-OSC-3 at index 8 and V-OSC-2 at index 9 (-32767, 32767 and 32767). -/
theorem test_oscillator :
    shape16 (oscillator { snapshot testGood with kind := .sawtooth } 4) f64One = (-32767#16, false) ∧
      shape16 (oscillator { snapshot testGood with kind := .triangle, triFix := true } 8) f64One = (32767#16, false) ∧
      shape16 (oscillator { snapshot testGood with kind := .triangle } 9) f64One = (32767#16, false) := by
  decide +kernel

/-- V-FLT-3 with the K its note gives: FILT_WN, FILT_B0, FILT_A1 and the first three samples. -/
theorem test_filter :
    let c := coeffsOfCorner pred1 0x4329153D9443ED0B#64
    normalizedCutoff 0x40B0000000000000#64 8192 = 0x3FEFFFFFFFFFFFFF#64 ∧ c.b0 = 0x3FEFFFFFFFFFFFFD#64 ∧
      c.a1 = 0x3FEFFFFFFFFFFFFB#64 ∧
      (filterOut c [32767, 32767, 32767]).map conv16 = [(32766#16, false), (32767#16, false), (32766#16, false)] := by
  decide +kernel

/-! ### Witnesses: the hypotheses of the statements can be met

Each theorem names the statement whose hypotheses it meets, clause by clause, at boundary values where a clause has a
range. -/

theorem test_good_renderable : Renderable (snapshot testGood) where
  nonempty := by decide +kernel
  fits := by
    have := bufCapacity_bounds
    have h : (snapshot testGood).length = 8 := by decide +kernel
    omega
  valid := (valid_iff _).mp (by decide +kernel)
  cutoff := fun h => absurd h (by decide)

theorem test_filtered_renderable : Renderable (snapshot testFiltered) where
  nonempty := by decide +kernel
  fits := by
    have := bufCapacity_bounds
    have h : (snapshot testFiltered).length = 2 := by decide +kernel
    omega
  valid := (valid_iff _).mp (by decide +kernel)
  cutoff := fun _ => ⟨by decide +kernel, by decide +kernel⟩

theorem test_playing_renderable : Renderable (snapshot testPlaying) where
  nonempty := by decide +kernel
  fits := by
    have := bufCapacity_bounds
    have h : (snapshot testPlaying).length = 2 := by decide +kernel
    omega
  valid := (valid_iff _).mp (by decide +kernel)
  cutoff := fun h => absurd h (by decide)

/-- A render of each failing kind: no samples, 2400000 samples (V-N-13), a NaN amplitude, and a zero cutoff. -/
theorem test_witness_RenderFails :
    RenderFails (snapshot testBad) .zeroLength ∧
      RenderFails (snapshot { testGood with sampleRateHz := 48000, durationMs := 50000 }) .overCapacity ∧
      RenderFails (snapshot { testGood with amplitude := f64NaN }) .badParam ∧
      RenderFails (snapshot { testGood with ctrl := 1 }) .badParam := by
  have hb := bufCapacity_bounds
  have h1 : (snapshot { testGood with sampleRateHz := 48000, durationMs := 50000 }).length = 2400000 := by decide +kernel
  have h2 : (snapshot { testGood with amplitude := f64NaN }).length = 8 := by decide +kernel
  have h3 : (snapshot { testGood with ctrl := 1 }).length = 8 := by decide +kernel
  refine ⟨.zeroLength (by decide +kernel), .overCapacity (by omega) (by omega), .invalid (by omega) (by omega) ?_,
    .cutoff (by omega) (by omega) ((valid_iff _).mp (by decide +kernel)) ?_⟩
  · exact fun h => absurd h.amp (by decide +kernel)
  · exact fun h => absurd (h (by decide)).2 (by decide +kernel)

theorem test_witness_BytesDecodeIffTheyAreTheEncoding :
    Instr.tick.wellFormed = true ∧ decodeBytes (encodeBytes .tick) = .ok .tick := by decide

theorem test_witness_StepRunsTheDecodedCommand :
    (testGood.withEvent (testCmd 4)).inbox = .hostWrite 0x060 8 4 :: [] ∧ decode 4 = .ok .tick ∧
      Instr.tick.wellFormed = true := ⟨rfl, rfl, rfl⟩

theorem test_witness_IdleStepHoldsAllState : State.reset.inbox = [] := rfl

/-- The largest opcode, the opcode after it, and the lowest bit of MBZ. -/
theorem test_witness_LegalWordsRunIllegalWordsReport :
    ((4#64).extractLsb' 8 56 = 0 ∧ ((4#64).extractLsb' 0 8).toNat ≤ 4) ∧
      ¬ ((5#64).extractLsb' 8 56 = 0 ∧ ((5#64).extractLsb' 0 8).toNat ≤ 4) ∧
      ¬ ((0x104#64).extractLsb' 8 56 = 0 ∧ ((0x104#64).extractLsb' 0 8).toNat ≤ 4) := by decide

/-- A zero and a nonzero upper half, and illegal writes at both ends of 0x060 to 0x067. -/
theorem test_witness_BusWritesFormTheCommandWord :
    (0x500000000#64).extractLsb' 0 32 = 0 ∧ (1#64).extractLsb' 0 32 ≠ 0 ∧
      ¬ ((0x060#24 : Offset) = 0x060 ∧ (2 = 4 ∨ 2 = 8)) ∧ ¬ ((0x060#24 : Offset) = 0x064 ∧ 2 = 4) ∧
      (0x067#24 : Offset).toNat < 0x068 ∧ ¬ ((0x064#24 : Offset) = 0x064 ∧ 8 = 4) := by decide

theorem test_witness_RealRegisterWritesMerge : Reg.amplitude ∈ realRegs ∧ Reg.releaseMs ∈ realRegs := by decide

/-- Kinds 3, 4 and 255, for writes of both widths. -/
theorem test_witness_WaveWriteStoresOrRefuses :
    (0x103#64).extractLsb' 0 8 = WaveKind.square.code ∧ 3 < ((4#64).extractLsb' 0 8).toNat ∧
      3 < ((255#64).extractLsb' 0 8).toNat := by decide

/-- A refused WAVE write is an event that leaves a set flag set, and sets one bit. -/
theorem test_witness_ErrFlags :
    let s := { State.reset with err := 0x80 }
    ∃ t, step (s.withEvent (.hostWrite 0x008 8 7)) = .next t ∧ (0x008#24 : Offset).toNat / 8 ≠ 0x070 / 8 ∧
      s.err.getLsbD 7 = true ∧ t.err = 0xA0 := ⟨_, rfl, by decide, by decide, by decide⟩

/-- The first read-only register, and the upper half of the last register of the map. -/
theorem test_witness_ReadOnlyRegistersIgnoreWrites :
    (Reg.status ∈ readOnlyRegs ∧ RegisterAccess 0x068 8 ∧ (0x068#24 : Offset).toNat / 8 = Reg.status.offset / 8) ∧
      (Reg.capacity ∈ readOnlyRegs ∧ RegisterAccess 0x0AC 4 ∧
        (0x0AC#24 : Offset).toNat / 8 = Reg.capacity.offset / 8) := by
  unfold RegisterAccess; decide

/-- The first word of bank 0 and the last of bank 1. -/
theorem test_bank_accesses :
    BankAccess .bank0 0x400000 8 ∧
      BankAccess .bank1 (BitVec.ofNat 24 (wordOffset .bank1 (bufCapacity - 1))) 2 := by
  have hb := bufCapacity_bounds
  have h0 : (0x400000 : Offset).toNat = 0x400000 := rfl
  refine ⟨⟨.inr (.inr rfl), by decide, ?_⟩, ⟨.inl rfl, ?_, ?_⟩⟩ <;>
    simp only [Bank.base, wordOffset, BitVec.toNat_ofNat] <;> omega

/-- The offset past the registers, the offset before bank 0, and one byte of a register. -/
theorem test_witness_IllegalAccessOnlySetsBadAccess :
    ¬ LegalRead 0x0B0 8 ∧ ¬ LegalRead 0x3FFFFE 2 ∧ ¬ RegisterAccess 0x800000 2 ∧ ¬ RegisterAccess 0x061 1 := by
  have h : ∀ off n, (∀ b, ¬ BankAccess b off n) → ¬ RegisterAccess off n → ¬ LegalRead off n :=
    fun off n hb hr h => h.elim hr fun ⟨b, hb'⟩ => hb b hb'
  refine ⟨h _ _ (fun b hb => ?_) ?_, h _ _ (fun b hb => ?_) ?_, ?_, ?_⟩
  · have := hb.2.2 0 (by decide)
    cases b <;> simp [Bank.base] at this
  · unfold RegisterAccess; decide
  · have := hb.2.2 0 (by decide)
    cases b <;> simp [Bank.base] at this
  all_goals unfold RegisterAccess; decide

theorem test_witness_LegalReadAnswersWithoutSideEffect :
    RegisterAccess 0x000 8 ∧ (0x000#24 : Offset).toNat / 8 = Reg.ctrl.offset / 8 ∧
      BankAccess .bank0 0x400000 8 := by
  refine ⟨?_, by decide, test_bank_accesses.1⟩
  unfold RegisterAccess; decide

/-- The last word of a bank, and the first four. -/
theorem test_witness_BankReadsAreLittleEndianWords :
    (bufCapacity - 1) % 1 = 0 ∧ bufCapacity - 1 + 1 ≤ bufCapacity ∧ 0 % 4 = 0 ∧ 0 + 4 ≤ bufCapacity := by
  have hb := bufCapacity_bounds
  omega

/-- RENDER in Off with the filter off and on, and in On; and each failure of test_witness_RenderFails. -/
theorem test_witness_RenderFillsTheNonPlayingBank :
    Renderable (snapshot testGood) ∧ testGood.on = false ∧
      Renderable (snapshot testFiltered) ∧ (snapshot testFiltered).filtEn = true ∧
      Renderable (snapshot testPlaying) ∧ testPlaying.on = true ∧ RenderFails (snapshot testBad) .zeroLength :=
  ⟨test_good_renderable, rfl, test_filtered_renderable, rfl, test_playing_renderable, rfl, test_witness_RenderFails.1⟩

theorem test_witness_ActivateRendersThenTurnsOn :
    (testGood.on = false ∧ Renderable (snapshot testGood)) ∧
      (testBad.on = false ∧ RenderFails (snapshot testBad) .zeroLength) ∧ testPlaying.on = true :=
  ⟨⟨rfl, test_good_renderable⟩, ⟨rfl, test_witness_RenderFails.1⟩, rfl⟩

theorem test_witness_DeactivateOnlyClearsOn : testPlaying.on = true ∧ State.reset.on = false := ⟨rfl, rfl⟩

theorem test_witness_TickRendersThenSwapsBanks :
    (testPlaying.on = true ∧ Renderable (snapshot testPlaying)) ∧
      ({ testBad with on := true }.on = true ∧
        RenderFails (snapshot { testBad with on := true }) .zeroLength) ∧ State.reset.on = false :=
  ⟨⟨rfl, test_playing_renderable⟩, ⟨rfl, .zeroLength (by decide +kernel)⟩, rfl⟩

theorem test_witness_FailedCommandMakesThreeWrites :
    ∃ t, runWord 0xFF State.reset = .next t ∧ t.result ≠ .ok := ⟨_, rfl, by decide⟩

/-- An illegal word, both state checks, and a failing render of each rendering command. -/
theorem test_witness_FirstFailingCheckIsReported :
    (∀ i, (5#64 : Word64) ≠ encode i) ∧ testPlaying.on = true ∧ testBad.on = false ∧
      RenderFails (snapshot testBad) .zeroLength ∧
      RenderFails (snapshot { testBad with on := true }) .zeroLength := by
  refine ⟨fun i => ?_, rfl, rfl, test_witness_RenderFails.1, .zeroLength (by decide +kernel)⟩
  cases i <;> decide

/-- The host address of offset 0. -/
theorem test_witness_HostAddressesMapToOffsets : blockOffset? blockBase = some 0 := by
  unfold blockOffset?
  generalize blockBase = base
  rw [if_pos ⟨Nat.le_refl _, by omega⟩, Nat.sub_self]
  rfl

/-- Two states that differ in PLAY_BANK, the first in Off, where RENDER and ACTIVATE render, the second in On, where RENDER
and TICK do. -/
theorem test_witness_RenderDependsOnTheSnapshotAlone :
    snapshot testShort = snapshot testPlaying ∧ testShort.playBank ≠ testPlaying.playBank ∧ testShort.on = false ∧
      testPlaying.on = true := by decide +kernel

theorem test_witness_OnlyHostWritesChangeParameters :
    ∃ t, step (State.reset.withEvent (.hostWrite 0x008 1 3)) = .next t ∧ ¬ RegisterAccess 0x008 1 :=
  ⟨_, rfl, by unfold RegisterAccess; decide⟩

/-- A step to On and one to Off. -/
theorem test_witness_OnlyActivateTurnsOnOnlyDeactivateTurnsOff :
    (∃ t, step (testShort.withEvent (testCmd 2)) = .next t ∧ testShort.on = false ∧ t.on = true) ∧
      ∃ t, step (testPlaying.withEvent (testCmd 3)) = .next t ∧ testPlaying.on = true ∧ t.on = false := by
  have h : ∀ s e, testAnswersNext s e = true → ∃ t, step (s.withEvent e) = .next t ∧ t = testAfter s e := by
    intro s e hn
    unfold testAnswersNext at hn
    unfold testAfter
    cases hs : step (s.withEvent e) <;> simp_all
  obtain ⟨t, ht, e⟩ := h testShort (testCmd 2) (by decide +kernel)
  obtain ⟨t', ht', e'⟩ := h testPlaying (testCmd 3) (by decide +kernel)
  exact ⟨⟨t, ht, rfl, by rw [e]; decide +kernel⟩, ⟨t', ht', rfl, by rw [e']; decide +kernel⟩⟩

theorem test_witness_PlayingBankIsNeverWritten :
    testPlaying.on = true ∧ testCmd 4 ≠ .reset ∧ testAnswersNext testPlaying (testCmd 4) = true := by decide +kernel

/-- Two steps, the second an illegal word. -/
theorem test_witness_SinkBufferIsStableUntilTickOrDeactivate :
    let s := { testPlaying with inbox := [.sinkRead .bank1 0, testCmd 0x105] }
    s.on = true ∧ (∀ e ∈ s.inbox.take 2, KeepsPlaying e) ∧
      ∃ t, Host.Core.run Sys2Proof.core 2 s = .next t ∧ t.result = .illegalCmd := by
  refine ⟨rfl, ?_, _, rfl, rfl⟩
  intro e he
  simp only [List.take, List.mem_cons, List.not_mem_nil, or_false] at he
  rcases he with rfl | rfl
  · trivial
  · intro _ _
    decide

/-- The last word of the playback buffer, the word after it, the other bank, and Off. -/
theorem test_witness_SinkReadReturnsTheWordOrAnyValue :
    (testPlaying.on = true ∧ Bank.bank1 = testPlaying.playBank ∧ 0 < (testPlaying.bankLen testPlaying.playBank).toNat) ∧
      ¬ 1 < (testPlaying.bankLen testPlaying.playBank).toNat ∧ Bank.bank0 ≠ testPlaying.playBank ∧
      State.reset.on = false := by decide

theorem test_playing_inv : Inv testPlaying where
  canonical := by decide
  mapped := by
    have hb := bufCapacity_bounds
    intro c hc
    refine ⟨.bank1, ?_⟩
    simp only [testPlaying, List.mem_cons, List.not_mem_nil, or_false] at hc
    rcases hc with rfl | rfl <;> simp only [Bank.base] <;> omega
  lengthFits := by
    have hb := bufCapacity_bounds
    intro b
    cases b
    · exact Nat.zero_le _
    · exact (by omega : 1 ≤ bufCapacity)
  written := by
    intro b k hk
    cases b
    · exact absurd hk (Nat.not_lt_zero k)
    · have hk' : k < 2 := hk
      interval_cases k <;> rfl
  lastRendered := fun _ => by decide
  playing := fun _ => by decide
  nothingRendered := fun h => absurd h (by decide)

theorem test_playing_filtFinite : FiltFinite testPlaying :=
  ⟨by decide +kernel, by decide +kernel, rfl, by decide +kernel⟩

/-- A state that meets the invariants takes a step that commits a render. -/
theorem test_witness_EveryStepKeepsInv :
    Inv testPlaying ∧ FiltFinite testPlaying ∧ testAnswersNext testPlaying (testCmd 1) = true :=
  ⟨test_playing_inv, test_playing_filtFinite, by decide +kernel⟩

/-- Half a sample is no sample (V-N-8). -/
theorem test_witness_SampleCountIsNearestTiesToEven :
    (snapshot { testGood with sampleRateHz := 1, durationMs := 500 }).length = 0 ∧ testGood.on = false ∧
      testPlaying.on = true := by decide +kernel

theorem test_witness_TooLongRenderFailsWithOverCapacity :
    bufCapacity < (snapshot { testGood with sampleRateHz := 48000, durationMs := 50000 }).length := by
  have hb := bufCapacity_bounds
  have h : (snapshot { testGood with sampleRateHz := 48000, durationMs := 50000 }).length = 2400000 := by decide +kernel
  omega

/-- A NaN cutoff and a zero cutoff (V-FLT-8, V-FLT-6), and a filter that is off. -/
theorem test_witness_InvalidCutoffFailsOnlyFilteredRenders :
    (snapshot testFiltered).length ≠ 0 ∧ (snapshot testFiltered).length ≤ bufCapacity ∧
      ValidParams (snapshot testFiltered) ∧ testFiltered.ctrl.getLsbD 0 = true ∧ f64IsFinite f64NaN = false ∧
      f64Lt f64PosZero (normalizedCutoff f64PosZero 2048) = false ∧ testFiltered.on = false ∧
      testGood.ctrl.getLsbD 0 = false :=
  ⟨test_filtered_renderable.nonempty, test_filtered_renderable.fits, test_filtered_renderable.valid, by decide,
    by decide +kernel, by decide +kernel, rfl, by decide⟩

/-- The quotients 1.0 (clamped) and 0.5 (not). -/
theorem test_witness_NormalizedCutoffIsClampedBelowOne :
    f64Le f64One (f64Div 0x40B0000000000000#64 (f64Mul f64Half (f64OfNat 8192))) = true ∧
      f64Le f64One (f64Div 0x40A0000000000000#64 (f64Mul f64Half (f64OfNat 8192))) = false ∧
      f64Lt f64PosZero (normalizedCutoff 0x40A0000000000000#64 8192) = true := by decide +kernel

/-- Infinity, a finite value, and the last value of TAN64's domain. -/
theorem test_witness_TrigonometryHasTheStatedProperties :
    f64IsFinite f64PosInf = false ∧ f64IsFinite f64One = true ∧ f64Lt f64PosZero halfPi64 = true ∧
      f64Le halfPi64 0x3FF921FB54442D18#64 = true := by decide +kernel

/-- Exact results below the boundary, one of them at a tie (2^53 + 1), and past it with both signs; a zero divisor. -/
theorem test_witness_Rounding :
    let big := 0x7FEFFFFFFFFFFFFF#64
    let negBig := 0xFFEFFFFFFFFFFFFF#64
    let bound : Nat := (2 ^ 54 - 1) * 2 ^ 2044
    f64IsFinite f64One = true ∧ f64Add 0x4340000000000000#64 f64One = 0x4340000000000000#64 ∧
      (f64Units 0x4340000000000000#64 + f64Units f64One).natAbs < bound ∧
      bound ≤ (f64Units big + f64Units big).natAbs ∧ bound ≤ (f64Units negBig - f64Units big).natAbs ∧
      f64Sub negBig big = 0xFFF0000000000000#64 ∧
      (f64Units f64Two * f64Units f64Half).natAbs < unitsPerOne * bound ∧
      unitsPerOne * bound ≤ (f64Units negBig * f64Units f64Two).natAbs ∧
      f64Mul negBig f64Two = 0xFFF0000000000000#64 ∧
      f64Units f64Half ≠ 0 ∧ (f64Units f64One * (unitsPerOne : Int)).natAbs < (f64Units f64Half).natAbs * bound ∧
      (f64Units f64Half).natAbs * bound ≤ (f64Units big * (unitsPerOne : Int)).natAbs ∧
      f64Div big f64Half = f64PosInf ∧ f64Units f64PosZero = 0 := by
  decide +kernel

/-- A NaN operand, and a zero and another finite operand beside an infinity (R116, R145: both NaN, and V-OSC-13). -/
theorem test_witness_InfinitiesAndNaNs :
    f64IsNaN f64NaN = true ∧ f64IsFinite f64PosZero = true ∧ f64Units f64PosZero = 0 ∧ f64IsFinite f64Half = true ∧
      f64Units f64Half ≠ 0 ∧ f64IsNaN (f64Mul f64PosInf f64PosZero) = true ∧ f64Mul f64Half f64PosInf = f64PosInf ∧
      f64IsNaN (f64Frac f64PosInf) = true ∧ f64IsNaN (f64Mul f64NaN f64PosZero) = true := by decide +kernel

/-- The address just past the block is no offset's. -/
theorem test_witness_addressOffTheBlock : ∀ off : Offset, blockBase + 2 ^ 24 ≠ blockBase + off.toNat := by
  intro off
  have := off.isLt
  omega

theorem test_witness_IntegerConversionIsExact : (2 ^ 53 : Nat) ≤ 2 ^ 53 ∧ (-(2 ^ 53) : Int).natAbs ≤ 2 ^ 53 := by decide

/-- 2.5, which is finite and not below zero, and infinity; values below, in and above [0, 1]. -/
theorem test_witness_FloorFracClamp :
    f64IsFinite 0x4004000000000000#64 = true ∧ 0 ≤ f64Units 0x4004000000000000#64 ∧
      f64Floor 0x4004000000000000#64 = f64Two ∧ f64Frac 0x4004000000000000#64 = f64Half ∧
      f64Clamp01 0x4004000000000000#64 = f64One ∧ f64IsFinite f64PosInf = false ∧
      (unitsPerOne : Int) < f64Units 0x4004000000000000#64 ∧ f64Units 0xC008000000000000#64 < 0 ∧
      0 ≤ f64Units f64One ∧ f64Units f64One ≤ (unitsPerOne : Int) := by decide +kernel

/-- A NaN, and the ordered pairs of each form: -inf and a finite value, a finite value and +inf, two finite values. -/
theorem test_witness_Comparisons :
    f64IsNaN f64NaN = true ∧ f64IsNaN f64One = false ∧ f64IsNaN f64PosInf = false ∧
      f64Lt 0xFFF0000000000000#64 f64One = true ∧ f64Lt f64One f64PosInf = true ∧ f64Lt f64Half f64One = true ∧
      f64Le f64PosInf f64PosInf = true ∧ f64Lt f64NaN f64One = false := by decide +kernel

theorem test_witness_ConversionSaturatesThenTruncates :
    f64IsNaN f64NaN = true ∧ f64IsInf f64PosInf = true ∧ f64IsFinite f64Max16 = true := by decide +kernel

theorem test_witness_EachKindAppliesItsFormula :
    f64Lt f64PosZero (snapshot testGood).f = true ∧ (snapshot testGood).kind = .square ∧
      (snapshot { testGood with wave := .triangle }).kind = .triangle ∧ (snapshot testGood).triFix = false ∧
      (snapshot { testGood with ctrl := 2 }).triFix = true ∧
      (snapshot { testGood with wave := .sine }).kind = .sine ∧
      (snapshot { testGood with wave := .sawtooth }).kind = .sawtooth := by decide +kernel

/-- MOD2 of 1.0, of +0.0, of 2^53 and of infinity; setting S8 at indices 3 (phase 0.75) and 4 (phase 1.0), and a frequency
whose double overflows. -/
theorem test_witness_SquareHasTwoLevels :
    let P := snapshot testGood
    let phase (f : F64) (i : Nat) :=
      f64Add (f64Mul (f64Mul 0x4000000000000000#64 f) (f64Div (f64OfNat i) (f64OfNat P.sr))) (f64Clamp01 P.pw)
    let one := (unitsPerOne : Int)
    (f64Units f64One = 1 * one ∧ f64Units f64PosZero = 0 * one ∧ f64Units 0x4340000000000000#64 = 2 ^ 53 * one ∧
      f64IsFinite 0x4340000000000000#64 = true ∧ f64IsFinite f64PosInf = false) ∧
    P.kind = .square ∧ f64Lt f64PosZero P.f = true ∧ f64IsFinite P.amp = true ∧
    f64IsFinite (phase P.f 3) = true ∧ (0 * one ≤ f64Units (phase P.f 3) ∧ f64Units (phase P.f 3) < (0 + 1) * one) ∧
    f64IsFinite (phase P.f 4) = true ∧ (1 * one ≤ f64Units (phase P.f 4) ∧ f64Units (phase P.f 4) < (1 + 1) * one) ∧
    (f64Lt f64PosZero 0x7FEFFFFFFFFFFFFF#64 = true ∧ f64IsFinite (phase 0x7FEFFFFFFFFFFFFF#64 1) = false) := by
  decide +kernel

/-- A NaN frequency is silence, and passes the checks (V-OSC-20), in Off and in On. -/
theorem test_witness_SilenceRendersZeroWords :
    let s := { testGood with frequencyHz := f64NaN }
    f64Lt f64PosZero s.frequencyHz = false ∧ Renderable (snapshot s) ∧ s.on = false ∧
      Renderable (snapshot { s with on := true }) ∧ RenderFails (snapshot { s with durationMs := 0 }) .zeroLength := by
  have h : Renderable (snapshot { testGood with frequencyHz := f64NaN }) :=
    ⟨by decide +kernel, test_good_renderable.fits, (valid_iff _).mp (by decide +kernel), fun h => absurd h (by decide)⟩
  exact ⟨by decide +kernel, h, rfl, h, .zeroLength (by decide +kernel)⟩

/-- A ramp of one sample, the last and an inner sample of a longer one, and V-ENV-1's segments A = 4, D = 2, R = 3 of N = 12
at the ends of each. -/
theorem test_witness_EnvelopeHasTheFourSegments :
    ((1 ≤ 1 ∧ 0 < 1) ∧ (4 ≠ 1 ∧ 3 = 4 - 1 ∧ 3 < 4) ∧ 2 < 4 - 1) ∧
      4 + 2 + 3 ≤ 12 ∧ 3 < 4 ∧ (4 ≤ 4 ∧ 5 < 4 + 2) ∧ (4 + 2 ≤ 6 ∧ 8 < 12 - 3) ∧ 12 - 3 ≤ 9 ∧ 11 < 12 := by decide

/-- R = 2, R = 1, A = 1 with R = N - 1, the first index of a release longer than the buffer, and the last index before the
release of N = 12 in an attack and in a decay that it cuts off, and in a sustain. -/
theorem test_witness_EnvelopeEndsAndOverlaps :
    2 ≤ 2 ∧ 1 = 1 ∧ (1 ≤ 1 ∧ 1 ≤ 2 ^ 52 ∧ 11 < 12) ∧ (0 < 12 ∧ 12 ≤ 0 + 20) ∧ (5 < 12 ∧ 5 + 6 < 12 ∧ 5 < 8) ∧
      (5 < 12 ∧ 5 + 6 < 12 ∧ 4 ≤ 5 ∧ 5 < 4 + 8) ∧ (5 < 12 ∧ 5 + 6 < 12 ∧ 4 + 1 ≤ 5) := by
  decide

/-- A negative time, a time whose count is a tie (V-SEG-5), 1e300 (V-SEG-9), and a time whose product overflows. -/
theorem test_witness_SegmentCountIsNearestAndBounded :
    let product (ms : F64) (sr : Nat) := f64Mul (f64Div ms 0x408F400000000000#64) (f64OfNat sr)
    let e300 := 0x7E37E43C8800759C#64
    let most := 0x7FEFFFFFFFFFFFFF#64
    f64IsFinite 0xC008000000000000#64 = true ∧ f64Lt 0xC008000000000000#64 f64PosZero = true ∧
      f64Lt f64Half f64PosZero = false ∧ f64IsFinite f64Half = true ∧
      f64Units (product f64Half 1000) ≤ 2 ^ 52 * (unitsPerOne : Int) ∧
      f64IsFinite e300 = true ∧ f64Lt e300 f64PosZero = false ∧ f64IsFinite (product e300 44100) = true ∧
      2 ^ 52 * (unitsPerOne : Int) ≤ f64Units (product e300 44100) ∧ segCount e300 44100 = 2 ^ 52 ∧
      f64IsFinite most = true ∧ f64IsInf (product most 44100) = true := by
  decide +kernel

/-- A filtered render in Off, and the same snapshot in On. -/
theorem test_witness_FilteredRenderDerivesItsCoefficients :
    testFiltered.ctrl.getLsbD 0 = true ∧ Renderable (snapshot testFiltered) ∧ testFiltered.on = false ∧
      Renderable (snapshot { testFiltered with on := true }) :=
  ⟨by decide, test_filtered_renderable, rfl, test_filtered_renderable⟩

end Sys2Proof.Machine
end

section
/-! PROOFS. Sums, products and quotients (O46, O47, O48): the infinities and the NaNs under each operation, and what one
rounding means for a signed exact result (00_scope.md R11, log entry 10). -/

namespace Sys2Proof.Machine

/-! ### Infinities and NaNs -/

/-- The infinity of a sign, as the statements of R11 write it. -/
def f64Infinity (negative : Bool) : F64 := if negative then 0xFFF0000000000000#64 else 0x7FF0000000000000#64

theorem f64Infinity_eq_pack (n : Bool) : f64Infinity n = f64Pack n infMagnitude := by cases n <;> decide

@[simp] theorem f64Negative_infinity (n : Bool) : f64Negative (f64Infinity n) = n := by cases n <;> decide

@[simp] theorem f64Magnitude_infinity (n : Bool) : f64Magnitude (f64Infinity n) = infMagnitude := by
  cases n <;> decide

@[simp] theorem f64IsInf_infinity (n : Bool) : f64IsInf (f64Infinity n) = true := by cases n <;> decide

@[simp] theorem f64IsNaN_infinity (n : Bool) : f64IsNaN (f64Infinity n) = false := by cases n <;> decide

@[simp] theorem f64Neg_infinity (n : Bool) : f64Neg (f64Infinity n) = f64Infinity (!n) := by cases n <;> decide

@[simp] theorem f64IsNaN_f64NaN : f64IsNaN f64NaN = true := by decide

@[simp] theorem f64IsNaN_neg (x : F64) : f64IsNaN (f64Neg x) = f64IsNaN x := by
  rw [f64IsNaN, f64IsNaN, (f64Neg_fields x).2]

theorem isInf_iff_exists (x : F64) : f64IsInf x = true ↔ ∃ n, x = f64Infinity n := by
  constructor
  · intro h
    exact ⟨f64Negative x, by rw [f64Infinity_eq_pack, ← (isInf_iff x).mp h, f64Pack_eta]⟩
  · rintro ⟨n, rfl⟩
    exact f64IsInf_infinity n

theorem f64Add_of_isNaN {x y : F64} (h : f64IsNaN x = true ∨ f64IsNaN y = true) : f64Add x y = f64NaN := by
  rw [f64Add, if_pos (by simpa using h)]

theorem f64Sub_of_isNaN {x y : F64} (h : f64IsNaN x = true ∨ f64IsNaN y = true) : f64Sub x y = f64NaN :=
  f64Add_of_isNaN (by rwa [f64IsNaN_neg])

theorem f64Mul_of_isNaN {x y : F64} (h : f64IsNaN x = true ∨ f64IsNaN y = true) : f64Mul x y = f64NaN := by
  simp only [f64Mul]
  rw [if_pos (by simpa using h)]

theorem f64Div_of_isNaN {x y : F64} (h : f64IsNaN x = true ∨ f64IsNaN y = true) : f64Div x y = f64NaN := by
  simp only [f64Div]
  rw [if_pos (by simpa using h)]

theorem f64Add_infinity_finite (n : Bool) {y : F64} (hy : f64IsFinite y = true) :
    f64Add (f64Infinity n) y = f64Infinity n := by
  simp [f64Add, not_isNaN_of_finite hy, not_isInf_of_finite hy]

theorem f64Add_finite_infinity (n : Bool) {y : F64} (hy : f64IsFinite y = true) :
    f64Add y (f64Infinity n) = f64Infinity n := by
  simp [f64Add, not_isNaN_of_finite hy, not_isInf_of_finite hy]

theorem f64Add_infinity_infinity (n m : Bool) :
    f64Add (f64Infinity n) (f64Infinity m) = if n = m then f64Infinity n else f64NaN := by
  cases n <;> cases m <;> decide

theorem f64Mul_infinity_finite (n : Bool) {y : F64} (hy : f64IsFinite y = true) :
    f64Mul (f64Infinity n) y = if f64Units y = 0 then f64NaN else f64Infinity (n != f64Negative y) := by
  have hinf : infMagnitude ≠ 0 := by decide
  simp [f64Mul, not_isNaN_of_finite hy, hinf, units_eq_zero_iff, f64Infinity_eq_pack (n != f64Negative y)]

theorem f64Mul_comm (x y : F64) : f64Mul x y = f64Mul y x := by
  rw [f64Mul, f64Mul, bne_comm, Bool.or_comm (f64IsNaN x), Bool.or_comm (f64IsInf x),
    Bool.or_comm (decide (f64Magnitude x = 0)), Nat.mul_comm]

theorem f64Mul_infinity_infinity (n m : Bool) :
    f64Mul (f64Infinity n) (f64Infinity m) = f64Infinity (n != m) := by
  cases n <;> cases m <;> decide

theorem f64Div_infinity_finite (n : Bool) {y : F64} (hy : f64IsFinite y = true) :
    f64Div (f64Infinity n) y = f64Infinity (n != f64Negative y) := by
  simp [f64Div, not_isNaN_of_finite hy, not_isInf_of_finite hy, f64Infinity_eq_pack (n != f64Negative y)]

theorem f64Div_finite_infinity (n : Bool) {y : F64} (hy : f64IsFinite y = true) :
    f64Div y (f64Infinity n) = f64Pack (f64Negative y != n) 0 := by
  simp [f64Div, not_isNaN_of_finite hy, not_isInf_of_finite hy]

theorem f64Div_infinity_infinity (n m : Bool) : f64Div (f64Infinity n) (f64Infinity m) = f64NaN := by
  cases n <;> cases m <;> decide

/-- A finite value over a zero: an infinity, or a NaN of a zero (log entry 10). -/
theorem f64Div_zero {x y : F64} (hx : f64IsFinite x = true) (hy : f64IsFinite y = true) (h0 : f64Units y = 0) :
    f64Div x y = if f64Units x = 0 then f64NaN else f64Infinity (f64Negative x != f64Negative y) := by
  have hm := (units_eq_zero_iff y).mp h0
  simp [f64Div, not_isNaN_of_finite hx, not_isNaN_of_finite hy, not_isInf_of_finite hx, not_isInf_of_finite hy, hm,
    units_eq_zero_iff, f64Infinity_eq_pack (f64Negative x != f64Negative y)]

/-! ### Signs -/

theorem negative_eq_decide {x : F64} (h : f64Units x ≠ 0) : f64Negative x = decide (f64Units x < 0) := by
  have hm : magnitudeUnits (f64Magnitude x) ≠ 0 := by rwa [← f64Units_natAbs, Ne, Int.natAbs_eq_zero]
  unfold f64Units
  cases f64Negative x <;> simp [Nat.pos_of_ne_zero hm]

/-- The sign of a product of values is the exclusive or of the signs. -/
theorem negative_bne_eq_decide {x y : F64} (h : f64Units x * f64Units y ≠ 0) :
    (f64Negative x != f64Negative y) = decide (f64Units x * f64Units y < 0) := by
  obtain ⟨hx, hy⟩ := mul_ne_zero_iff.mp h
  rw [negative_eq_decide hx, negative_eq_decide hy]
  rw [Bool.eq_iff_iff, decide_eq_true_iff, mul_neg_iff, bne_iff_ne, Ne, decide_eq_decide]
  omega

/-! ### One rounding of a signed result

An exact result is `e / d` units. A packed rounding of it has the magnitude of `e.natAbs / d` rounded, and the sign of
`e` where `e` is not zero. -/

/-- `a` is zero or has the sign of `b`. -/
def SameSide (a b : Int) : Prop := (0 ≤ b → 0 ≤ a) ∧ (b ≤ 0 → a ≤ 0)

theorem SameSide.natAbs_sub {a b : Int} (h : SameSide a b) :
    (a - b).natAbs = ((a.natAbs : Int) - b.natAbs).natAbs := by
  obtain ⟨hpos, hneg⟩ := h
  omega

/-- Of two integers of one magnitude that stand equally far from `e`, one on `e`'s side is the other. -/
theorem SameSide.eq_of_natAbs_eq {a b e : Int} (h : SameSide b e) (hab : a.natAbs = b.natAbs)
    (heq : (b - e).natAbs = (a - e).natAbs) : a = b := by
  obtain ⟨hpos, hneg⟩ := h
  rcases Int.natAbs_eq_natAbs_iff.mp hab with hab | hab <;> omega

theorem natAbs_natAbs_sub_le (a b : Int) : ((a.natAbs : Int) - b.natAbs).natAbs ≤ (a - b).natAbs := by omega

theorem units_mul_natAbs (x : F64) (d : Nat) :
    ((f64Units x * d).natAbs : Int) = magnitudeUnits (f64Magnitude x) * d := by
  rw [Int.natAbs_mul, f64Units_natAbs, Int.natAbs_natCast, Nat.cast_mul]

/-- A packed rounding has no sign but that of the exact result. -/
theorem pack_round_sameSide {neg : Bool} {e : Int} {d : Nat} (hd : 0 < d) (hs : e ≠ 0 → neg = decide (e < 0)) :
    SameSide (f64Units (f64Pack neg (roundUnits e.natAbs d)) * d) e := by
  rw [f64Units_pack neg (roundUnits_lt _ _)]
  have hnonneg : (0 : Int) ≤ magnitudeUnits (roundUnits e.natAbs d) * d :=
    mul_nonneg (Int.natCast_nonneg _) (Int.natCast_nonneg _)
  rcases lt_trichotomy e 0 with he | he | he
  · rw [hs he.ne, decide_eq_true he, if_pos rfl, Int.neg_mul]
    exact ⟨fun h => absurd he h.not_gt, fun _ => Int.neg_nonpos_of_nonneg hnonneg⟩
  · rw [he, Int.natAbs_zero, roundUnits_zero hd, magnitudeUnits_zero, Nat.cast_zero, neg_zero, ite_self, zero_mul]
    exact ⟨id, id⟩
  · rw [hs he.ne', decide_eq_false he.not_gt, if_neg Bool.false_ne_true]
    exact ⟨fun _ => hnonneg, fun h => absurd he h.not_gt⟩

/-- Below the boundary of overflow a packed rounding is finite, no value `q` is nearer to the exact result, and where
another is as near, the result's pattern is even (00_scope.md R11). -/
theorem pack_round_nearest {r : F64} {neg : Bool} {e : Int} {d : Nat} (hr : r = f64Pack neg (roundUnits e.natAbs d))
    (hd : 0 < d) (hs : e ≠ 0 → neg = decide (e < 0)) (hlt : e.natAbs < d * ((2 ^ 54 - 1) * 2 ^ 2044)) (q : F64) :
    f64IsFinite r = true ∧
      (f64Units r * d - e).natAbs ≤ (f64Units q * d - e).natAbs ∧
      ((f64Units r * d - e).natAbs = (f64Units q * d - e).natAbs → f64Units q ≠ f64Units r →
        f64Magnitude r % 2 = 0) := by
  have hfin : f64IsFinite r = true := hr ▸ pack_round_finite neg hd hlt
  have hmag : f64Magnitude r = roundUnits e.natAbs d := by rw [hr, f64Magnitude_pack neg (roundUnits_lt _ _)]
  have hside : SameSide (f64Units r * d) e := hr ▸ pack_round_sameSide hd hs
  obtain ⟨hle, htie⟩ := roundUnits_nearest hd (hmag ▸ (isFinite_iff r).mp hfin) (f64Magnitude q)
  rw [← hmag, ← units_mul_natAbs, ← units_mul_natAbs, ← hside.natAbs_sub] at hle htie
  have hq := natAbs_natAbs_sub_le (f64Units q * d) e
  refine ⟨hfin, hle.trans hq, fun heq hne => ?_⟩
  refine htie (le_antisymm hle (hq.trans heq.ge)) fun hqr => hne ?_
  have habs : (f64Units q * d).natAbs = (f64Units r * d).natAbs := by
    rw [Int.natAbs_mul, Int.natAbs_mul, f64Units_natAbs, f64Units_natAbs, hqr]
  exact mul_right_cancel₀ (Int.natCast_ne_zero.mpr hd.ne') (hside.eq_of_natAbs_eq habs heq)

/-- From half a quantum above the largest finite value on, a packed rounding is the infinity of the
exact result's sign. -/
theorem pack_round_infinity {r : F64} {neg : Bool} {e : Int} {d : Nat} (hr : r = f64Pack neg (roundUnits e.natAbs d))
    (hd : 0 < d) (hs : e ≠ 0 → neg = decide (e < 0)) (hge : d * ((2 ^ 54 - 1) * 2 ^ 2044) ≤ e.natAbs) :
    r = f64Infinity (decide (e < 0)) := by
  have he : e ≠ 0 := by
    rintro rfl
    have h0 := (roundUnits_eq_inf_iff _ hd).mpr hge
    rw [Int.natAbs_zero, roundUnits_zero hd] at h0
    exact absurd h0 (by decide)
  rw [hr, pack_round_overflow neg hd hge, ← hs he]
  rfl

/-! ### Sums, products and quotients -/

/-- What R11 and log entry 10 say of a sum `r` of finite values with the exact result `exact`, beside the value `q`. -/
def RoundedSum (r q : F64) (exact : Int) (bothNegative : Bool) : Prop :=
  (exact.natAbs < (2 ^ 54 - 1) * 2 ^ 2044 →
    f64IsFinite r = true ∧
      (f64Units r - exact).natAbs ≤ (f64Units q - exact).natAbs ∧
      ((f64Units r - exact).natAbs = (f64Units q - exact).natAbs → f64Units q ≠ f64Units r →
        f64Magnitude r % 2 = 0)) ∧
  ((2 ^ 54 - 1) * 2 ^ 2044 ≤ exact.natAbs → r = f64Infinity (decide (exact < 0))) ∧
  (exact = 0 → r = if bothNegative then 0x8000000000000000#64 else 0x0000000000000000#64)

theorem f64Add_of_units_zero {x y : F64} (hx : f64IsFinite x = true) (hy : f64IsFinite y = true)
    (h0 : f64Units x + f64Units y = 0) : f64Add x y = f64Pack (f64Negative x && f64Negative y) 0 := by
  simp [f64Add, not_isNaN_of_finite hx, not_isNaN_of_finite hy, not_isInf_of_finite hx, not_isInf_of_finite hy, h0]

theorem f64Pack_zero (neg : Bool) :
    f64Pack neg 0 = if neg then 0x8000000000000000#64 else 0x0000000000000000#64 := by cases neg <;> decide

theorem f64Add_roundedSum {x y : F64} (hx : f64IsFinite x = true) (hy : f64IsFinite y = true) (q : F64) :
    RoundedSum (f64Add x y) q (f64Units x + f64Units y) (f64Negative x && f64Negative y) := by
  obtain ⟨neg, hr, hs⟩ := f64Add_finite hx hy
  refine ⟨fun hlt => ?_, fun hge => ?_, fun h0 => ?_⟩
  · have h := pack_round_nearest hr Nat.one_pos hs (by rwa [Nat.one_mul]) q
    rwa [Nat.cast_one, mul_one, mul_one] at h
  · exact pack_round_infinity hr Nat.one_pos hs (by rwa [Nat.one_mul])
  · rw [f64Add_of_units_zero hx hy h0, f64Pack_zero]

/-- A difference is the sum with the subtrahend's sign bit inverted. -/
theorem f64Sub_roundedSum {x y : F64} (hx : f64IsFinite x = true) (hy : f64IsFinite y = true) (q : F64) :
    RoundedSum (f64Sub x y) q (f64Units x - f64Units y) (f64Negative x && !f64Negative y) := by
  have h := f64Add_roundedSum hx ((f64IsFinite_neg y).trans hy) q
  rwa [f64Units_neg, (f64Neg_fields y).1, ← sub_eq_add_neg] at h

/-- Settles O46: one rounding of the exact sum, and the infinities and NaNs case by case. -/
theorem sumRoundsToNearestEven : Obligations.SumRoundsToNearestEven := by
  refine ⟨fun x y q hx hy _ => ⟨f64Add_roundedSum hx hy q, f64Sub_roundedSum hx hy q⟩, fun x y h => ?_,
    fun n y hy => ?_, fun n => ?_⟩
  · rw [f64Add_of_isNaN h, f64Sub_of_isNaN h]
    exact ⟨rfl, rfl⟩
  · have hy' : f64IsFinite (f64Neg y) = true := (f64IsFinite_neg y).trans hy
    refine ⟨f64Add_infinity_finite n hy, f64Add_finite_infinity n hy, f64Add_infinity_finite n hy', ?_⟩
    show f64Add y (f64Neg (f64Infinity n)) = f64Infinity (!n)
    rw [f64Neg_infinity, f64Add_finite_infinity _ hy]
  · show f64Add (f64Infinity n) (f64Infinity n) = f64Infinity n ∧
      f64IsNaN (f64Add (f64Infinity n) (f64Infinity !n)) = true ∧
      f64Add (f64Infinity n) (f64Neg (f64Infinity !n)) = f64Infinity n ∧
      f64IsNaN (f64Add (f64Infinity n) (f64Neg (f64Infinity n))) = true
    simp [f64Add_infinity_infinity]

theorem f64Mul_exact_natAbs (x y : F64) :
    magnitudeUnits (f64Magnitude x) * magnitudeUnits (f64Magnitude y) = (f64Units x * f64Units y).natAbs := by
  rw [Int.natAbs_mul, f64Units_natAbs, f64Units_natAbs]

/-- Settles O47: one rounding of the exact product over `unitsPerOne`, and the infinities and NaNs case by case. -/
theorem productRoundsToNearestEven : Obligations.ProductRoundsToNearestEven := by
  refine ⟨fun x y q hx hy _ => ?_, fun x y h => ?_, fun n y hy => ?_, f64Mul_infinity_infinity⟩
  · have hr := f64Mul_finite hx hy
    rw [f64Mul_exact_natAbs] at hr
    refine ⟨fun hlt => ?_, fun hge => ?_, ?_⟩
    · exact pack_round_nearest hr unitsPerOne_pos negative_bne_eq_decide hlt q
    · exact pack_round_infinity hr unitsPerOne_pos negative_bne_eq_decide hge
    · rw [hr, f64Negative_pack _ (roundUnits_lt _ _)]
  · rw [f64Mul_of_isNaN h]
    rfl
  · have hleft := f64Mul_infinity_finite n hy
    have hright := (f64Mul_comm y (f64Infinity n)).trans hleft
    refine ⟨fun h0 => ?_, fun h0 => ?_⟩
    · rw [if_pos h0] at hleft hright
      exact ⟨hleft ▸ f64IsNaN_f64NaN, hright ▸ f64IsNaN_f64NaN⟩
    · rw [if_neg h0] at hleft hright
      exact ⟨hleft, hright⟩

/-- The exact quotient `x / y`, as a ratio whose denominator is not negative, is this many units over those of `|y|`. -/
def quotientNumerator (x y : F64) : Int := f64Units x * unitsPerOne * (f64Units y).sign

theorem quotientNumerator_mul (x y : F64) :
    quotientNumerator x y * (f64Units y).natAbs = f64Units x * f64Units y * unitsPerOne := by
  rw [quotientNumerator, mul_assoc, Int.sign_mul_natAbs, mul_right_comm]

theorem quotientNumerator_natAbs {x y : F64} (h0 : f64Units y ≠ 0) :
    (quotientNumerator x y).natAbs = (f64Units x * unitsPerOne).natAbs := by
  rw [quotientNumerator, Int.natAbs_mul, Int.natAbs_sign_of_ne_zero h0, Nat.mul_one]

theorem quotientNumerator_neg_iff {x y : F64} (h0 : f64Units y ≠ 0) :
    quotientNumerator x y < 0 ↔ f64Units x * f64Units y < 0 := by
  have hone : (0 : Int) < unitsPerOne := Int.natCast_pos.mpr unitsPerOne_pos
  have hy : (0 : Int) < (f64Units y).natAbs := Int.natCast_pos.mpr (Int.natAbs_pos.mpr h0)
  calc quotientNumerator x y < 0
      ↔ quotientNumerator x y * (f64Units y).natAbs < 0 * (f64Units y).natAbs := (mul_lt_mul_iff_left₀ hy).symm
    _ ↔ f64Units x * f64Units y * unitsPerOne < 0 * unitsPerOne := by rw [quotientNumerator_mul, zero_mul, zero_mul]
    _ ↔ f64Units x * f64Units y < 0 := mul_lt_mul_iff_left₀ hone

/-- Turning both signs of a ratio leaves the distance of a value from it. -/
theorem quotientNumerator_distance (u : Int) {x y : F64} (h0 : f64Units y ≠ 0) :
    (u * (f64Units y).natAbs - quotientNumerator x y).natAbs = (u * f64Units y - f64Units x * unitsPerOne).natAbs := by
  have h : u * (f64Units y).natAbs - quotientNumerator x y =
      (u * f64Units y - f64Units x * unitsPerOne) * (f64Units y).sign := by
    rw [quotientNumerator, ← Int.mul_sign_self]; ring
  rw [h, Int.natAbs_mul, Int.natAbs_sign_of_ne_zero h0, Nat.mul_one]

theorem f64Div_finite_eq {x y : F64} (hx : f64IsFinite x = true) (hy : f64IsFinite y = true) (h0 : f64Units y ≠ 0) :
    f64Div x y = f64Pack (f64Negative x != f64Negative y)
      (roundUnits (quotientNumerator x y).natAbs (f64Units y).natAbs) := by
  rw [f64Div_finite hx hy (mt (units_eq_zero_iff y).mpr h0), quotientNumerator_natAbs h0, Int.natAbs_mul,
    f64Units_natAbs, f64Units_natAbs, Int.natAbs_natCast]

theorem quotient_sign {x y : F64} (hq : quotientNumerator x y ≠ 0) :
    (f64Negative x != f64Negative y) = decide (quotientNumerator x y < 0) := by
  have hxs : f64Units x * unitsPerOne ≠ 0 := left_ne_zero_of_mul hq
  have hy : f64Units y ≠ 0 := mt Int.sign_eq_zero_iff_zero.mpr (right_ne_zero_of_mul hq)
  rw [negative_bne_eq_decide (mul_ne_zero (left_ne_zero_of_mul hxs) hy), decide_eq_decide, quotientNumerator_neg_iff hy]

/-- Settles O48: one rounding of the exact quotient over the divisor's magnitude, and zeros, infinities and NaNs case by
case. -/
theorem quotientRoundsToNearestEven : Obligations.QuotientRoundsToNearestEven := by
  refine ⟨fun x y q hx hy _ => ⟨fun h0 => ?_, fun h0 => ?_⟩, fun x y h => ?_, fun n y hy => ?_, fun n m => ?_⟩
  · have hr := f64Div_finite_eq hx hy h0
    have hd : 0 < (f64Units y).natAbs := Int.natAbs_pos.mpr h0
    have habs := quotientNumerator_natAbs (x := x) h0
    refine ⟨fun hlt => ?_, fun hge => ?_, ?_⟩
    · have h := pack_round_nearest hr hd quotient_sign (habs ▸ hlt) q
      rwa [quotientNumerator_distance _ h0, quotientNumerator_distance _ h0] at h
    · have h := pack_round_infinity hr hd quotient_sign (habs ▸ hge)
      rwa [decide_eq_decide.mpr (quotientNumerator_neg_iff h0)] at h
    · rw [hr, f64Negative_pack _ (roundUnits_lt _ _)]
  · have hr := f64Div_zero hx hy h0
    refine ⟨fun hx0 => hr.trans (if_neg hx0), fun hx0 => ?_⟩
    rw [hr, if_pos hx0]
    rfl
  · rw [f64Div_of_isNaN h]
    rfl
  · refine ⟨f64Div_infinity_finite n hy, (f64Div_finite_infinity n hy).trans ?_⟩
    rw [f64Pack_zero, bne_comm]
  · exact congrArg f64IsNaN (f64Div_infinity_infinity n m)

end Sys2Proof.Machine
end

section
/-! PROOFS. Exact conversions (O49), FLOOR, ABS and FRAC (O50, O51), comparisons and CLAMP01 (O52), and SIN64 and TAN64
(O45): 00_scope.md R11, R12, R14. -/

namespace Sys2Proof.Machine

/-! ### Values that have a pattern -/

/-- The pattern of a value of `e` units is finite and has that value, whichever the sign of a zero. -/
theorem f64Pack_exact {neg : Bool} {e : Int} {m : Nat} (hs : e ≠ 0 → neg = decide (e < 0)) (hm : m < infMagnitude)
    (he : magnitudeUnits m = e.natAbs) : f64IsFinite (f64Pack neg m) = true ∧ f64Units (f64Pack neg m) = e := by
  have hm' := hm.trans infMagnitude_lt
  refine ⟨(isFinite_iff _).mpr (by rwa [f64Magnitude_pack neg hm']), ?_⟩
  rw [f64Units_pack neg hm', he]
  rcases lt_trichotomy e 0 with h | h | h
  · rw [hs h.ne, decide_eq_true h, if_pos rfl]; omega
  · rw [h, Int.natAbs_zero, Nat.cast_zero, neg_zero, ite_self]
  · rw [hs h.ne', decide_eq_false h.not_gt, if_neg Bool.false_ne_true]; omega

theorem f64OfInt_exact {k : Int} (hk : k.natAbs ≤ 2 ^ 53) :
    f64IsFinite (f64OfInt k) = true ∧ f64Units (f64OfInt k) = k * (unitsPerOne : Int) := by
  obtain ⟨m, hm, he, hu⟩ := f64OfInt_form hk
  have hone : (0 : Int) < unitsPerOne := Int.natCast_pos.mpr unitsPerOne_pos
  have hsign : k * (unitsPerOne : Int) < 0 ↔ k < 0 := by
    rw [mul_neg_iff]
    omega
  rw [he, ← decide_eq_decide.mpr hsign]
  exact f64Pack_exact (fun _ => rfl) hm (by rw [hu, Int.natAbs_mul, Int.natAbs_natCast])

/-- A natural number converts as the integer it is. -/
theorem f64OfInt_natCast (k : Nat) : f64OfInt k = f64OfNat k := by
  rw [f64OfInt, f64OfNat, Int.natAbs_natCast, decide_eq_false (Int.natCast_nonneg k).not_gt]

theorem f64OfNat_exact {k : Nat} (hk : k ≤ 2 ^ 53) :
    f64IsFinite (f64OfNat k) = true ∧ f64Units (f64OfNat k) = k * (unitsPerOne : Int) :=
  f64OfInt_natCast k ▸ f64OfInt_exact hk

/-- Settles O49: an integer of at most 53 bits has a pattern of its own. -/
theorem integerConversionIsExact : Obligations.IntegerConversionIsExact :=
  ⟨fun _ => f64OfNat_exact, fun _ => f64OfInt_exact⟩

/-- Every multiple of a power of two by an integer of 53 bits has a magnitude pattern. -/
theorem exists_magnitude_of_scaled (sh : Nat) : ∀ q < 2 ^ 53, ∃ m, magnitudeUnits m = q * 2 ^ sh := by
  induction sh with
  | zero => exact fun q hq => ⟨q, by rw [magnitudeUnits_small hq.le, pow_zero, Nat.mul_one]⟩
  | succ sh ih =>
    intro q hq
    rcases Nat.lt_or_ge q (2 ^ 52) with hlt | hge
    · obtain ⟨m, hm⟩ := ih (q * 2) (by omega)
      exact ⟨m, by rw [hm, Nat.mul_assoc, ← pow_succ']⟩
    · exact ⟨_, magnitudeUnits_scaled hge hq.le⟩

/-! ### FLOOR and FRAC -/

/-- A finite magnitude that is no integer is below 2^52. -/
theorem magnitudeUnits_lt_of_not_dvd {m : Nat} (h : ¬ unitsPerOne ∣ magnitudeUnits m) :
    magnitudeUnits m < 2 ^ 52 * unitsPerOne := by
  obtain ⟨sh, q, -, hq, -, hu⟩ := magnitude_form m
  rw [hu] at h ⊢
  have hsh : sh < 1074 := by
    by_contra hge
    exact h (Dvd.dvd.mul_left (pow_dvd_pow 2 (not_lt.mp hge)) q)
  calc q * 2 ^ sh < 2 ^ 53 * 2 ^ sh := Nat.mul_lt_mul_of_pos_right hq (Nat.two_pow_pos sh)
    _ = 2 ^ 52 * 2 ^ (sh + 1) := by rw [pow_succ]; ring
    _ ≤ 2 ^ 52 * unitsPerOne := by
      rw [unitsPerOne]
      exact Nat.mul_le_mul_left _ (pow_le_pow_right₀ one_le_two hsh)

/-- The part of a magnitude below the binary point has a pattern of its own. -/
theorem exists_magnitude_of_mod (m : Nat) : ∃ f, magnitudeUnits f = magnitudeUnits m % unitsPerOne := by
  obtain ⟨sh, q, -, hq, -, hu⟩ := magnitude_form m
  rcases Nat.lt_or_ge sh 1074 with hlt | hge
  · obtain ⟨f, hf⟩ := exists_magnitude_of_scaled sh (q % 2 ^ (1074 - sh)) ((Nat.mod_le _ _).trans_lt hq)
    refine ⟨f, ?_⟩
    rw [hf, hu, unitsPerOne, ← Nat.mul_mod_mul_right, ← pow_add, Nat.sub_add_cancel hlt.le]
  · refine ⟨0, ?_⟩
    rw [hu, magnitudeUnits_zero, unitsPerOne, Nat.mod_eq_zero_of_dvd (Dvd.dvd.mul_left (pow_dvd_pow 2 hge) q)]

theorem natAbs_ediv_le {u : Int} {c k : Nat} (hc : 0 < c) (h : u.natAbs ≤ k * c) : (u / c).natAbs ≤ k := by
  have hc' : (0 : Int) < c := Int.natCast_pos.mpr hc
  have hu : (u.natAbs : Int) ≤ k * c := by exact_mod_cast h
  have hlo : -(k : Int) ≤ u / c := (Int.le_ediv_iff_mul_le hc').mpr (by rw [Int.neg_mul]; omega)
  have hhi : u / c ≤ k := Int.ediv_le_of_le_mul hc' (by omega)
  omega

theorem f64Floor_of_not_finite {x : F64} (hx : f64IsFinite x = false) : f64Floor x = x := by
  rw [f64Floor, hx, if_neg Bool.false_ne_true]

/-- FLOOR of a finite value is finite, and the integer below it. -/
theorem f64Floor_finite {x : F64} (hx : f64IsFinite x = true) :
    f64IsFinite (f64Floor x) = true ∧
      f64Units (f64Floor x) = f64Units x / (unitsPerOne : Int) * (unitsPerOne : Int) := by
  simp only [f64Floor, hx, if_true]
  split
  case isTrue h => exact ⟨hx, h.symm⟩
  case isFalse h =>
    have hdvd : ¬ unitsPerOne ∣ (f64Units x).natAbs := fun hd => h (Int.ediv_mul_cancel (Int.natCast_dvd.mpr hd))
    rw [f64Units_natAbs] at hdvd
    have hlt := magnitudeUnits_lt_of_not_dvd hdvd
    rw [← f64Units_natAbs] at hlt
    exact f64OfInt_exact ((natAbs_ediv_le unitsPerOne_pos hlt.le).trans (by decide))

theorem f64Abs_toNat (x : F64) : (f64Abs x).toNat = f64Magnitude x := by
  rw [f64Abs, BitVec.toNat_and, f64Magnitude]
  exact Nat.and_two_pow_sub_one_eq_mod x.toNat 63

theorem f64Abs_eq_pack (x : F64) : f64Abs x = f64Pack false (f64Magnitude x) :=
  BitVec.eq_of_toNat_eq (by rw [f64Abs_toNat, f64Pack_toNat false (f64Magnitude_lt x), if_neg Bool.false_ne_true])

theorem f64Abs_eq_append (x : F64) : f64Abs x = 0#1 ++ x.extractLsb' 0 63 := by
  apply BitVec.eq_of_toNat_eq
  rw [f64Abs_toNat, BitVec.toNat_append, BitVec.extractLsb'_toNat, f64Magnitude]
  simp

theorem f64Abs_finite {x : F64} (hx : f64IsFinite x = true) :
    f64IsFinite (f64Abs x) = true ∧ f64Units (f64Abs x) = (f64Units x).natAbs := by
  rw [f64Abs_eq_pack]
  exact f64Pack_exact (fun _ => (decide_eq_false (Int.natCast_nonneg _).not_gt).symm) ((isFinite_iff x).mp hx)
    (by rw [Int.natAbs_natCast, f64Units_natAbs])

/-- Settles O50: FLOOR of a finite value is the quotient of the floor division by 1.0. -/
theorem floorIsTheLargestIntegralBelow : Obligations.FloorIsTheLargestIntegralBelow := by
  refine fun x => ⟨fun hx => ?_, f64Floor_of_not_finite, f64Abs_eq_append x, f64Abs_finite⟩
  have hone : (0 : Int) < unitsPerOne := Int.natCast_pos.mpr unitsPerOne_pos
  obtain ⟨hfin, hunits⟩ := f64Floor_finite hx
  exact ⟨hfin, _, hunits, Int.ediv_mul_le _ hone.ne', Int.lt_ediv_add_one_mul_self _ hone⟩

/-- A difference that has a pattern is exact. -/
theorem f64Sub_exact {x y : F64} {m : Nat} (hx : f64IsFinite x = true) (hy : f64IsFinite y = true)
    (hm : m < infMagnitude) (he : magnitudeUnits m = (f64Units x - f64Units y).natAbs) :
    f64IsFinite (f64Sub x y) = true ∧ f64Units (f64Sub x y) = f64Units x - f64Units y := by
  obtain ⟨neg, hr, hs⟩ := f64Add_finite hx ((f64IsFinite_neg y).trans hy)
  rw [f64Units_neg, ← sub_eq_add_neg] at hr hs
  have hround : roundUnits (f64Units x - f64Units y).natAbs 1 = m := by
    rw [← he, ← Nat.mul_one (magnitudeUnits m), roundUnits_exact m Nat.one_pos, Nat.min_eq_left hm.le]
  rw [f64Sub, hr, hround]
  exact f64Pack_exact hs hm he

theorem f64Frac_of_not_finite {x : F64} (hx : f64IsFinite x = false) : f64Frac x = f64NaN := by
  rw [f64Frac, f64Floor_of_not_finite hx]
  rcases f64_class x with hfin | hinf | hnan
  · exact absurd hfin (by rw [hx]; exact Bool.false_ne_true)
  · obtain ⟨n, rfl⟩ := (isInf_iff_exists x).mp hinf
    rw [f64Sub, f64Neg_infinity, f64Add_infinity_infinity, if_neg (Bool.eq_not_self n).mp]
  · exact f64Sub_of_isNaN (.inl hnan)

/-- FRAC of a finite value that is not negative is what the floor division by 1.0 leaves. -/
theorem f64Frac_finite {x : F64} (hx : f64IsFinite x = true) (h0 : 0 ≤ f64Units x) :
    f64IsFinite (f64Frac x) = true ∧ f64Units (f64Frac x) = f64Units x - f64Units (f64Floor x) ∧
      f64Units x - f64Units (f64Floor x) = f64Units x % (unitsPerOne : Int) := by
  obtain ⟨hfin, hunits⟩ := f64Floor_finite hx
  have hmod : f64Units x - f64Units (f64Floor x) = f64Units x % (unitsPerOne : Int) := by
    rw [hunits, Int.emod_def, mul_comm]
  obtain ⟨m, hm⟩ := exists_magnitude_of_mod (f64Magnitude x)
  have he : magnitudeUnits m = (f64Units x - f64Units (f64Floor x)).natAbs := by
    rw [hmod, Int.natAbs_emod_of_nonneg h0, Int.natAbs_natCast, hm, f64Units_natAbs]
  have hlt : m < infMagnitude := by
    rw [← magnitudeUnits_strictMono.lt_iff_lt, hm]
    refine (Nat.mod_lt _ unitsPerOne_pos).trans ?_
    decide +kernel
  obtain ⟨hfin', hsub⟩ := f64Sub_exact hx hfin hlt he
  exact ⟨hfin', hsub, hmod⟩

/-- Settles O51: below zero nothing is claimed beyond the subtraction. -/
theorem fracIsExactAndBelowOne : Obligations.FracIsExactAndBelowOne := by
  refine fun x => ⟨rfl, fun hx => ?_, fun hx h0 => ?_⟩
  · rw [f64Frac_of_not_finite hx]
    rfl
  · have hone : (0 : Int) < unitsPerOne := Int.natCast_pos.mpr unitsPerOne_pos
    obtain ⟨hfin, hunits, hmod⟩ := f64Frac_finite hx h0
    refine ⟨hfin, hunits, ?_, ?_⟩ <;> rw [hunits, hmod]
    · exact Int.emod_nonneg _ hone.ne'
    · exact Int.emod_lt_of_pos _ hone

/-! ### Classes and comparisons, by the key

The keys of the values that are no NaN run from `-infMagnitude` to `infMagnitude`, the infinities at the ends. -/

theorem f64Key_natAbs (x : F64) : (f64Key x).natAbs = f64Magnitude x := by
  unfold f64Key
  split <;> simp

theorem isFinite_iff_key (x : F64) : f64IsFinite x = true ↔ (f64Key x).natAbs < infMagnitude := by
  rw [f64Key_natAbs, isFinite_iff]

theorem isNaN_eq_false_iff_key (x : F64) : f64IsNaN x = false ↔ (f64Key x).natAbs ≤ infMagnitude := by
  rw [f64Key_natAbs, ← Bool.not_eq_true, isNaN_iff, not_lt]

theorem eq_infinity_iff_key (x : F64) (n : Bool) :
    x = f64Infinity n ↔ f64Key x = if n then -(infMagnitude : Int) else infMagnitude := by
  have hpos : 0 < infMagnitude := by decide
  rw [f64_eq_iff, f64Negative_infinity, f64Magnitude_infinity, f64Key]
  cases f64Negative x <;> cases n <;> simp <;> omega

theorem lt_iff_key {x y : F64} (hx : f64IsNaN x = false) (hy : f64IsNaN y = false) :
    f64Lt x y = true ↔ f64Key x < f64Key y := by
  simp [f64Lt, hx, hy]

theorem le_iff_key {x y : F64} (hx : f64IsNaN x = false) (hy : f64IsNaN y = false) :
    f64Le x y = true ↔ f64Key x ≤ f64Key y := by
  simp [f64Le, hx, hy]

theorem f64Lt_of_isNaN {x y : F64} (h : f64IsNaN x = true ∨ f64IsNaN y = true) : f64Lt x y = false := by
  rcases h with h | h <;> simp [f64Lt, h]

theorem f64Le_of_isNaN {x y : F64} (h : f64IsNaN x = true ∨ f64IsNaN y = true) : f64Le x y = false := by
  rcases h with h | h <;> simp [f64Le, h]

theorem lt_iff_of_not_isNaN {x y : F64} (hx : f64IsNaN x = false) (hy : f64IsNaN y = false) :
    f64Lt x y = true ↔
      (x = f64Infinity true ∧ y ≠ f64Infinity true) ∨ (x ≠ f64Infinity false ∧ y = f64Infinity false) ∨
        (f64IsFinite x = true ∧ f64IsFinite y = true ∧ f64Units x < f64Units y) := by
  rw [lt_iff_key hx hy, Ne, Ne, eq_infinity_iff_key, eq_infinity_iff_key, eq_infinity_iff_key, eq_infinity_iff_key,
    isFinite_iff_key, isFinite_iff_key, ← key_lt_iff]
  rw [isNaN_eq_false_iff_key] at hx hy
  simp only [if_true, Bool.false_eq_true, if_false]
  have hpos : 0 < infMagnitude := by decide
  omega

theorem le_iff_of_not_isNaN {x y : F64} (hx : f64IsNaN x = false) (hy : f64IsNaN y = false) :
    f64Le x y = true ↔
      x = f64Infinity true ∨ y = f64Infinity false ∨
        (f64IsFinite x = true ∧ f64IsFinite y = true ∧ f64Units x ≤ f64Units y) := by
  rw [le_iff_key hx hy, eq_infinity_iff_key, eq_infinity_iff_key, isFinite_iff_key, isFinite_iff_key,
    ← not_lt (a := f64Units y), ← key_lt_iff]
  rw [isNaN_eq_false_iff_key] at hx hy
  simp only [if_true, Bool.false_eq_true, if_false]
  omega

/-- A NaN has all exponent bits set and a fraction that is not zero. -/
theorem isNaN_iff_fields (x : F64) :
    f64IsNaN x = true ↔ x.extractLsb' 52 11 = 0x7FF#11 ∧ x.extractLsb' 0 52 ≠ 0 := by
  rw [isNaN_iff, f64Magnitude, Ne, ← BitVec.toNat_inj, ← BitVec.toNat_inj, BitVec.extractLsb'_toNat,
    BitVec.extractLsb'_toNat, Nat.shiftRight_eq_div_pow, Nat.shiftRight_eq_div_pow, infMagnitude]
  simp only [BitVec.ofNat_eq_ofNat, BitVec.toNat_ofNat, pow_zero, Nat.div_one]
  omega

theorem not_isFinite_iff (x : F64) : f64IsFinite x = false ↔ f64IsInf x = true ∨ f64IsNaN x = true := by
  rw [← Bool.not_eq_true, isFinite_iff, isInf_iff, isNaN_iff]
  omega

/-! ### CLAMP01 -/

theorem f64Units_zero : f64Units f64PosZero = 0 := by decide

theorem f64Units_one : f64Units f64One = unitsPerOne := by decide +kernel

theorem lt_zero_iff_units {x : F64} (hx : f64IsFinite x = true) : f64Lt x f64PosZero = true ↔ f64Units x < 0 := by
  rw [lt_iff_units hx (by decide), f64Units_zero]

theorem one_lt_iff_units {x : F64} (hx : f64IsFinite x = true) :
    f64Lt f64One x = true ↔ (unitsPerOne : Int) < f64Units x := by
  rw [lt_iff_units (by decide) hx, f64Units_one]

theorem f64Clamp01_of_neg {x : F64} (hx : f64IsFinite x = true) (h : f64Units x < 0) : f64Clamp01 x = f64PosZero := by
  rw [f64Clamp01, if_pos ((lt_zero_iff_units hx).mpr h)]

theorem f64Clamp01_of_one_lt {x : F64} (hx : f64IsFinite x = true) (h : (unitsPerOne : Int) < f64Units x) :
    f64Clamp01 x = f64One := by
  have h0 : ¬ f64Units x < 0 := ((Int.natCast_nonneg _).trans h.le).not_gt
  rw [f64Clamp01, if_neg (mt (lt_zero_iff_units hx).mp h0), if_pos ((one_lt_iff_units hx).mpr h)]

theorem f64Clamp01_of_mem {x : F64} (hx : f64IsFinite x = true) (h0 : 0 ≤ f64Units x)
    (h1 : f64Units x ≤ (unitsPerOne : Int)) : f64Clamp01 x = x := by
  rw [f64Clamp01, if_neg (mt (lt_zero_iff_units hx).mp h0.not_gt), if_neg (mt (one_lt_iff_units hx).mp h1.not_gt)]

theorem f64Clamp01_of_isNaN {x : F64} (h : f64IsNaN x = true) : f64Clamp01 x = x := by
  rw [f64Clamp01, f64Lt_of_isNaN (.inl h), f64Lt_of_isNaN (.inr h)]
  rfl

/-- CLAMP01 of a finite value is finite and the value moved into [0, 1]. -/
theorem f64Clamp01_finite {x : F64} (hx : f64IsFinite x = true) :
    f64IsFinite (f64Clamp01 x) = true ∧ f64Units (f64Clamp01 x) = max 0 (min (unitsPerOne : Int) (f64Units x)) := by
  have hone : (0 : Int) ≤ unitsPerOne := Int.natCast_nonneg _
  rcases lt_or_ge (f64Units x) 0 with hneg | h0
  · rw [f64Clamp01_of_neg hx hneg, f64Units_zero]
    exact ⟨by decide, by omega⟩
  rcases lt_or_ge (unitsPerOne : Int) (f64Units x) with hbig | h1
  · rw [f64Clamp01_of_one_lt hx hbig, f64Units_one]
    exact ⟨by decide, by omega⟩
  · rw [f64Clamp01_of_mem hx h0 h1]
    exact ⟨hx, by omega⟩

/-- Settles O52: the classes, the comparisons by the key, and the three ranges of CLAMP01. -/
theorem clampKeepsTheUnitInterval : Obligations.ClampKeepsTheUnitInterval := by
  refine ⟨fun x => ⟨(isInf_iff_exists x).trans Bool.exists_bool, isNaN_iff_fields x, not_isFinite_iff x⟩,
    fun x y => ⟨fun h => ?_, fun hx hy => ?_⟩, fun x hx => ?_,
    ⟨by decide, by decide, fun _ => f64Clamp01_of_isNaN⟩, fun _ => ⟨rfl, rfl, rfl⟩⟩
  · exact ⟨f64Lt_of_isNaN h, f64Le_of_isNaN h⟩
  · exact ⟨lt_iff_of_not_isNaN hx hy, le_iff_of_not_isNaN hx hy⟩
  · obtain ⟨hfin, hunits⟩ := f64Clamp01_finite hx
    exact ⟨hfin, hunits, f64Clamp01_of_neg hx, f64Clamp01_of_one_lt hx, f64Clamp01_of_mem hx⟩

/-! ### SIN64 and TAN64 -/

theorem sin64_of_not_finite {x : F64} (hx : f64IsFinite x = false) : sin64 x = f64NaN := by
  rw [sin64, hx, if_neg Bool.false_ne_true]

/-- SIN64 of a finite value is finite, and its magnitude at most 1.0, whatever the opaque choice is. -/
theorem sin64_finite {x : F64} (hx : f64IsFinite x = true) :
    f64IsFinite (sin64 x) = true ∧ (f64Units (sin64 x)).natAbs ≤ unitsPerOne := by
  simp only [sin64, hx, if_true]
  split
  case isTrue h =>
    obtain ⟨hfin, hle⟩ := Bool.and_eq_true_iff.mp h
    obtain ⟨hafin, habs⟩ := f64Abs_finite hfin
    rw [le_iff_units hafin (by decide), habs, f64Units_one] at hle
    exact ⟨hfin, Int.ofNat_le.mp hle⟩
  case isFalse => exact ⟨by decide, by rw [f64Units_zero]; exact Nat.zero_le _⟩

/-- TAN64 in its domain is finite and above 0, whatever the opaque choice is. -/
theorem tan64_pos {x : F64} (h0 : f64Lt f64PosZero x = true) (h1 : f64Le x halfPi64 = true) :
    f64IsFinite (tan64 x) = true ∧ 0 < f64Units (tan64 x) := by
  simp only [tan64, h0, h1, Bool.and_self, if_true]
  split
  case isTrue h =>
    obtain ⟨hfin, hlt⟩ := Bool.and_eq_true_iff.mp h
    rw [lt_iff_units (by decide) hfin, f64Units_zero] at hlt
    exact ⟨hfin, hlt⟩
  case isFalse => exact ⟨by decide, by rw [f64Units_one]; exact Int.natCast_pos.mpr unitsPerOne_pos⟩

/-- Settles O45: the model gives the opaque choice only where it meets R14. -/
theorem trigonometryHasTheStatedProperties : Obligations.TrigonometryHasTheStatedProperties := by
  refine fun x => ⟨fun hx => ?_, sin64_finite, tan64_pos⟩
  rw [sin64_of_not_finite hx]
  rfl

end Sys2Proof.Machine
end

section
/-! PROOFS. The rules about a step that the statements on the state share: which fields each operation leaves alone, one
inversion lemma for a delivered word and one for a delivered event (10_state.md R20, R36, R38, R46). -/

namespace Sys2Proof.Machine

/-! ### The parts of the state an operation leaves alone -/

/-- The two states hold the same banks, lengths and FILT registers and agree on what plays and what was rendered last:
everything that only a command or a reset writes, RESULT and LAST_OP apart. -/
structure SameBanks (s t : State) : Prop where
  on : t.on = s.on
  playBank : t.playBank = s.playBank
  lastBank : t.lastBank = s.lastBank
  lastValid : t.lastValid = s.lastValid
  bank0Len : t.bank0Len = s.bank0Len
  bank1Len : t.bank1Len = s.bank1Len
  filtWn : t.filtWn = s.filtWn
  filtB0 : t.filtB0 = s.filtB0
  filtB1 : t.filtB1 = s.filtB1
  filtA1 : t.filtA1 = s.filtA1
  mem : t.mem = s.mem

/-- Every ERR flag set in `s` is set in `t` (10_state.md R38). -/
def KeepsErrFlags (s t : State) : Prop := ∀ b : Nat, s.err.getLsbD b = true → t.err.getLsbD b = true

theorem SameBanks.bankLen {s t : State} (h : SameBanks s t) (b : Bank) : t.bankLen b = s.bankLen b := by
  cases b
  · exact h.bank0Len
  · exact h.bank1Len

theorem SameParameters.trans {s t u : State} (h : SameParameters s t) (h' : SameParameters t u) :
    SameParameters s u where
  ctrl := h'.ctrl.trans h.ctrl
  wave := h'.wave.trans h.wave
  amplitude := h'.amplitude.trans h.amplitude
  frequencyHz := h'.frequencyHz.trans h.frequencyHz
  pulseWidth := h'.pulseWidth.trans h.pulseWidth
  cutoffHz := h'.cutoffHz.trans h.cutoffHz
  attackMs := h'.attackMs.trans h.attackMs
  decayMs := h'.decayMs.trans h.decayMs
  sustainLevel := h'.sustainLevel.trans h.sustainLevel
  releaseMs := h'.releaseMs.trans h.releaseMs
  sampleRateHz := h'.sampleRateHz.trans h.sampleRateHz
  durationMs := h'.durationMs.trans h.durationMs

theorem SameOutside.trans {s t u : State} (h : SameOutside s t) (h' : SameOutside t u) : SameOutside s u where
  inbox := h'.inbox.trans h.inbox
  reply := h'.reply.trans h.reply
  drawEpoch := h'.drawEpoch.trans h.drawEpoch
  sinkDraws := h'.sinkDraws.trans h.sinkDraws

theorem KeepsErrFlags.of_or {s t : State} {m : BitVec 8} (h : t.err = s.err ||| m) : KeepsErrFlags s t := by
  intro b hb
  rw [h, BitVec.getLsbD_or, hb, Bool.true_or]

theorem KeepsErrFlags.of_eq {s t : State} (h : t.err = s.err) : KeepsErrFlags s t := fun _ hb => h ▸ hb

theorem KeepsErrFlags.trans {s t u : State} (h : KeepsErrFlags s t) (h' : KeepsErrFlags t u) : KeepsErrFlags s u :=
  fun b hb => h' b (h b hb)

/-! ### Register writes -/

/-- A merged write to WAVE stores the kind its bits 7:0 are the code of, or raises BAD_KIND (10_state.md R24). -/
theorem writeWave_cases (image : Word64) (s : State) :
    (∃ k, waveKind? (image.setWidth 8) = some k ∧ writeWave image s = { s with wave := k }) ∨
      (waveKind? (image.setWidth 8) = none ∧ writeWave image s = setErr badKindFlag s) := by
  unfold writeWave
  cases h : waveKind? (image.setWidth 8) with
  | some k => exact .inl ⟨k, rfl, rfl⟩
  | none => exact .inr ⟨rfl, rfl⟩

theorem writeReg_sameBanks (r : Reg) (image data : Word64) (s : State) : SameBanks s (writeReg r image data s) := by
  cases r
  case wave =>
    rcases writeWave_cases image s with ⟨k, -, h⟩ | ⟨-, h⟩ <;> rw [writeReg, h] <;> constructor <;> rfl
  all_goals constructor <;> rfl

theorem writeReg_sameOutside (r : Reg) (image data : Word64) (s : State) : SameOutside s (writeReg r image data s) := by
  cases r
  case wave =>
    rcases writeWave_cases image s with ⟨k, -, h⟩ | ⟨-, h⟩ <;> rw [writeReg, h] <;> constructor <;> rfl
  all_goals constructor <;> rfl

/-- The registers from CMD on hold no parameter (10_state.md R20, R22). -/
theorem writeReg_sameParameters {r : Reg} (hr : 0x060 ≤ r.offset) (image data : Word64) (s : State) :
    SameParameters s (writeReg r image data s) := by
  cases r
  case ctrl | wave | amplitude | frequencyHz | pulseWidth | cutoffHz | attackMs | decayMs | sustainLevel | releaseMs |
      sampleRateHz | durationMs => exact absurd hr (by decide)
  all_goals constructor <;> rfl

/-- Only a write to ERR clears flags (10_state.md R38). -/
theorem writeReg_keepsErrFlags {r : Reg} (hr : r ≠ .err) (image data : Word64) (s : State) :
    KeepsErrFlags s (writeReg r image data s) := by
  cases r
  case err => exact absurd rfl hr
  case wave =>
    rcases writeWave_cases image s with ⟨k, -, h⟩ | ⟨-, h⟩ <;> rw [writeReg, h]
    · exact .of_eq rfl
    · exact .of_or rfl
  all_goals exact .of_eq rfl

/-! ### Commands -/

theorem commit_sameParameters (tb : Bank) (r : Rendered) (s : State) : SameParameters s (commit tb r s) := by
  rw [commit_eq]; constructor <;> rfl

theorem commit_sameOutside (tb : Bank) (r : Rendered) (s : State) : SameOutside s (commit tb r s) := by
  rw [commit_eq]; constructor <;> rfl

theorem commit_keepsErrFlags (tb : Bank) (r : Rendered) (s : State) : KeepsErrFlags s (commit tb r s) := by
  cases hn : r.nan
  · exact .of_eq (by simp [hn])
  · exact .of_or (m := nanSampleFlag) (by simp [hn])

theorem completed_sameParameters (i : Instr) (s : State) : SameParameters s (completed i s) := by
  cases i with
  | nop | deactivate => constructor <;> rfl
  | render => exact commit_sameParameters ..
  | activate | tick =>
    simp only [completed]
    exact (commit_sameParameters s.playBank.other (renderResult (snapshot s)) s).trans (by constructor <;> rfl)

theorem completed_sameOutside (i : Instr) (s : State) : SameOutside s (completed i s) := by
  cases i with
  | nop | deactivate => constructor <;> rfl
  | render => exact commit_sameOutside ..
  | activate | tick =>
    simp only [completed]
    exact (commit_sameOutside s.playBank.other (renderResult (snapshot s)) s).trans (by constructor <;> rfl)

theorem completed_keepsErrFlags (i : Instr) (s : State) : KeepsErrFlags s (completed i s) := by
  cases i with
  | nop | deactivate => exact .of_eq rfl
  | render => exact commit_keepsErrFlags _ _ s
  | activate | tick =>
    simp only [completed]
    exact (commit_keepsErrFlags s.playBank.other (renderResult (snapshot s)) s).trans (.of_eq rfl)

theorem epilogue_sameBanks (op : Byte) (c : ResultCode) (s : State) : SameBanks s (epilogue op c s) := by
  constructor <;> rfl

theorem epilogue_sameParameters (op : Byte) (c : ResultCode) (s : State) : SameParameters s (epilogue op c s) := by
  constructor <;> rfl

theorem epilogue_sameOutside (op : Byte) (c : ResultCode) (s : State) : SameOutside s (epilogue op c s) := by
  constructor <;> rfl

/-! ### A delivered word -/

/-- The decoder reads a command only from that command's encoding (30_encoding.md R90, R92). -/
theorem eq_encode_of_decode {w : Word64} {i : Instr} (h : decode w = .ok i) : w = encode i := by
  unfold decode at h
  split at h
  case isTrue => cases h
  case isFalse hz =>
    have hw : w.toNat = (opcodeField w).toNat := by
      have h0 : (w >>> 8).toNat = 0 := by rw [not_not.mp hz]; rfl
      rw [BitVec.toNat_ushiftRight, Nat.shiftRight_eq_div_pow] at h0
      rw [opcodeField, BitVec.toNat_setWidth]
      omega
    split at h <;> cases h <;> exact BitVec.eq_of_toNat_eq (by rw [hw]; assumption)

/-- What a delivered word can leave (44_commands.md R201): its command completed, or it only reported an error. -/
theorem word_cases {w : Word64} {s t : State} (h : runWord w s = .next t) :
    (∃ i, w = encode i ∧ Completes i s ∧ t = epilogue i.opcode .ok (completed i s)) ∨
      ∃ op c, t = epilogue op c s := by
  rcases runWord_cases w s with ⟨i, hd, hw⟩ | ⟨-, hw⟩ <;> rw [hw] at h
  · rcases exec_cases i s with ⟨hc, he⟩ | ⟨e, -, he⟩ <;> rw [he] at h <;> cases h
    · exact .inl ⟨i, eq_encode_of_decode hd, hc, rfl⟩
    · exact .inr ⟨_, _, rfl⟩
  · cases h
    exact .inr ⟨_, _, rfl⟩

theorem exec_sameParameters_sameOutside (i : Instr) (s : State) :
    ∃ t, exec i s = .next t ∧ SameParameters s t ∧ SameOutside s t := by
  rcases exec_cases i s with ⟨-, h⟩ | ⟨e, -, h⟩
  · exact ⟨_, h, (completed_sameParameters i s).trans (epilogue_sameParameters ..),
      (completed_sameOutside i s).trans (epilogue_sameOutside ..)⟩
  · exact ⟨_, h, epilogue_sameParameters .., epilogue_sameOutside ..⟩

/-! ### A delivered event -/

/-- Everything one event can do to the block, by what becomes of it. -/
inductive Delivered (s : State) : Event → State → Prop where
  /-- The reset is asserted. -/
  | reset : Delivered s .reset (platformReset s)
  /-- A legal write delivers a command word (30_encoding.md R94). -/
  | word {off : Offset} {n : Nat} {v : Word64} {t : State} : RegisterAccess off n → off.toNat / 8 = 0x060 / 8 →
      runWord (placedData off n v) { s with reply := .writeDone } = .next t → Delivered s (.hostWrite off n v) t
  /-- A legal write reaches another register (10_state.md R46). -/
  | register {off : Offset} {n : Nat} {v : Word64} (r : Reg) (image data : Word64) : r ≠ .cmd →
      RegisterAccess off n → off.toNat / 8 = r.offset / 8 →
      Delivered s (.hostWrite off n v) (writeReg r image data { s with reply := .writeDone })
  /-- A read, a sink read or an illegal access, which changes at most ERR and the answer (20_memory.md
  R64, R67, R76). -/
  | answer {e : Event} (flags : BitVec 8) (rep : Reply) (draws : Nat) :
      Delivered s e { s with err := s.err ||| flags, reply := rep, sinkDraws := draws }

theorem Delivered.answer_of_err_eq (s : State) {e : Event} (rep : Reply) (draws : Nat) :
    Delivered s e { s with reply := rep, sinkDraws := draws } := by
  simpa using Delivered.answer (s := s) (e := e) 0 rep draws

theorem delivered_of_step {s t : State} {e : Event} (h : step (s.withEvent e) = .next t) : Delivered s e t := by
  rw [step_withEvent] at h
  cases e with
  | hostRead off n =>
    cases h
    rcases hostRead_cases off n s with ⟨r, -, -, h⟩ | ⟨-, h⟩ | ⟨-, h⟩ <;> rw [h]
    · exact .answer_of_err_eq s _ s.sinkDraws
    · exact .answer_of_err_eq s _ s.sinkDraws
    · exact .answer badAccessFlag _ s.sinkDraws
  | hostWrite off n v =>
    change hostWrite off n v { s with reply := .writeDone } = .next t at h
    rcases hostWrite_cases off n v { s with reply := .writeDone } with
      ⟨ha, hr, hw⟩ | ⟨r, hc, ha, hr, hw⟩ | ⟨-, hw⟩ <;> rw [hw] at h
    · exact .word ha hr h
    · cases h
      exact .register r _ _ hc ha hr
    · cases h
      exact .answer badAccessFlag .writeDone s.sinkDraws
  | sinkRead b i =>
    cases h
    rcases sinkRead_cases b i s with ⟨-, h⟩ | ⟨-, h⟩ <;> rw [h]
    · exact .answer_of_err_eq s _ s.sinkDraws
    · exact .answer_of_err_eq s _ _
  | reset =>
    cases h
    exact .reset

/-- A step idles, or delivers the oldest event to the state without it (log entries 1 and 3). -/
theorem step_cases {s t : State} (h : step s = .next t) :
    t = s ∨ ∃ e rest, s.inbox = e :: rest ∧ step (State.withEvent { s with inbox := rest } e) = .next t := by
  unfold step at h
  cases hi : s.inbox with
  | nil => rw [hi] at h; cases h; exact .inl rfl
  | cons e rest => rw [hi] at h; exact .inr ⟨e, rest, rfl, h⟩

end Sys2Proof.Machine
end

section
/-! PROOFS. The machine's invariant (O38), and what the commands do to ON and to the bank that plays (O33, O34). -/

namespace Sys2Proof.Machine

/-! ### The banks after a commit -/

theorem Bank.eq_or_other (b tb : Bank) : b = tb ∨ b = tb.other := by cases b <;> cases tb <;> decide

theorem Bank.other_ne (b : Bank) : b.other ≠ b := by cases b <;> decide

@[simp] theorem Bank.other_other (b : Bank) : b.other.other = b := by cases b <;> rfl

/-- A render into one bank writes no byte of the other bank's window (20_memory.md R62). -/
theorem RenderedInto.outside_window {tb b : Bank} {s t : State} (h : RenderedInto tb s t)
    (hfit : (snapshot s).length ≤ bufCapacity) (hb : b ≠ tb) {a : Nat} (ha : b.base ≤ a ∧ a < b.base + 2 ^ 22) :
    memByte? t.mem a = memByte? s.mem a ∧ t.byteAt a = s.byteAt a :=
  h.others a fun ha' => bank_windows_disjoint hb ha (by omega)

/-! ### The invariant, part by part -/

theorem Inv.of_sameBanks {s t : State} (hi : Inv s) (h : SameBanks s t) : Inv t where
  canonical := by rw [h.mem]; exact hi.canonical
  mapped := by rw [h.mem]; exact hi.mapped
  lengthFits b := by rw [h.bankLen]; exact hi.lengthFits b
  written b k hk := by rw [h.mem]; exact hi.written b k (h.bankLen b ▸ hk)
  lastRendered hv := by rw [h.bankLen, h.lastBank]; exact hi.lastRendered (h.lastValid ▸ hv)
  playing ho := by rw [h.bankLen, h.playBank]; exact hi.playing (h.on ▸ ho)
  nothingRendered hv := by
    rw [h.mem, h.bank0Len, h.bank1Len, h.on, h.playBank, h.lastBank, h.filtWn, h.filtB0, h.filtB1, h.filtA1]
    exact hi.nothingRendered (h.lastValid ▸ hv)

theorem inv_reset : Inv State.reset where
  canonical := rfl
  mapped _ hc := absurd hc List.not_mem_nil
  lengthFits b := by cases b <;> exact Nat.zero_le _
  written b k hk := by cases b <;> exact absurd hk (Nat.not_lt_zero k)
  lastRendered h := absurd h (by decide)
  playing h := absurd h (by decide)
  nothingRendered _ := ⟨rfl, rfl, rfl, rfl, rfl, rfl, rfl, rfl, rfl, rfl⟩

/-- The commit of a render keeps the invariant, whichever bank it fills (40_render_pipeline.md R120). -/
theorem Inv.of_commit {s : State} (hi : Inv s) (h : Renderable (snapshot s)) (tb : Bank) :
    Inv (commit tb (renderResult (snapshot s)) s) := by
  have hr := commit_renderedInto (tb := tb) h
  have hcap := bufCapacity_bounds
  have hfit := h.fits
  have hpos := Nat.pos_of_ne_zero h.nonempty
  have hlen := renderResult_length (snapshot s)
  have hpositive : ∀ b, 0 < (s.bankLen b).toNat →
      0 < ((commit tb (renderResult (snapshot s)) s).bankLen b).toNat := by
    intro b hb
    rcases Bank.eq_or_other b tb with rfl | rfl
    · rw [hr.length]; exact hpos
    · rw [hr.otherLength]; exact hb
  constructor
  case canonical => rw [commit_mem]; exact wf_memWrite hi.canonical _ _
  case mapped =>
    intro c hc
    rw [commit_mem] at hc
    rcases mem_memWrite hc with hnew | hold
    · rw [samplesBytes_length] at hnew
      exact ⟨tb, by omega⟩
    · exact hi.mapped c hold
  case lengthFits =>
    intro b
    rcases Bank.eq_or_other b tb with rfl | rfl
    · rw [hr.length]; exact hfit
    · rw [hr.otherLength]; exact hi.lengthFits _
  case written =>
    intro b k hk
    rcases Bank.eq_or_other b tb with rfl | rfl
    · rw [hr.length] at hk
      have hlt : k < (samplesBytes (renderResult (snapshot s)).out).length := by rw [samplesBytes_length]; omega
      rw [commit_mem, memByte?_memWrite, if_pos (by omega), Nat.add_sub_cancel_left, List.getElem?_eq_getElem hlt]
      rfl
    · rw [hr.otherLength] at hk
      have hle := hi.lengthFits tb.other
      rw [(hr.outside_window hfit tb.other_ne (by omega)).1]
      exact hi.written _ k hk
  case lastRendered =>
    intro _
    rw [commit_lastBank, hr.length]
    exact hpos
  case playing =>
    intro ho
    rw [commit_on] at ho
    rw [commit_playBank]
    exact hpositive _ (hi.playing ho)
  case nothingRendered => intro hv; rw [commit_lastValid] at hv; cases hv

/-- A bank just rendered may play (10_state.md R36). -/
theorem Inv.play {s : State} {b : Bank} (hi : Inv s) (hv : s.lastValid = true) (hb : s.lastBank = b) (on : Bool) :
    Inv { s with playBank := b, on := on } :=
  { hi with
    playing := fun _ => hb ▸ hi.lastRendered hv
    nothingRendered := fun h => absurd (hv.symm.trans h) (by decide) }

theorem Inv.stop {s : State} (hi : Inv s) : Inv { s with on := false } :=
  { hi with
    playing := fun h => nomatch h
    nothingRendered := fun h =>
      let ⟨hm, h0, h1, _, hrest⟩ := hi.nothingRendered h
      ⟨hm, h0, h1, rfl, hrest⟩ }

/-! ### The invariant through a command, an event and a step -/

theorem Inv.of_completed {i : Instr} {s : State} (hi : Inv s) (hc : Completes i s) : Inv (completed i s) := by
  have hplay (hr : Renderable (snapshot s)) :=
    (hi.of_commit hr s.playBank.other).play (commit_lastValid ..) (commit_lastBank ..)
  cases i with
  | nop => exact hi
  | render => exact hi.of_commit hc _
  | activate => exact hplay hc.2 true
  | deactivate => exact hi.stop
  | tick => exact hplay hc.2 _

theorem Inv.of_word {w : Word64} {s t : State} (hi : Inv s) (h : runWord w s = .next t) : Inv t := by
  rcases word_cases h with ⟨i, -, hc, rfl⟩ | ⟨op, c, rfl⟩
  · exact (hi.of_completed hc).of_sameBanks (epilogue_sameBanks ..)
  · exact hi.of_sameBanks (epilogue_sameBanks ..)

theorem Inv.of_delivered {s t : State} {e : Event} (hi : Inv s) (h : Delivered s e t) : Inv t := by
  have hreply : Inv { s with reply := .writeDone } := hi.of_sameBanks (by constructor <;> rfl)
  cases h with
  | reset => exact inv_reset.of_sameBanks (by constructor <;> rfl)
  | word _ _ hw => exact hreply.of_word hw
  | register r image data => exact hreply.of_sameBanks (writeReg_sameBanks ..)
  | answer => exact hi.of_sameBanks (by constructor <;> rfl)

/-- Settles O38, event by event: only a completed command and a reset touch what `Inv` speaks of. -/
theorem everyStepKeepsInv : Obligations.EveryStepKeepsInv := by
  intro s t hi h
  rcases step_cases h with rfl | ⟨e, rest, -, he⟩
  · exact hi
  · have hrest : Inv { s with inbox := rest } := hi.of_sameBanks (by constructor <;> rfl)
    exact hrest.of_delivered (delivered_of_step he)

end Sys2Proof.Machine
end

section
/-! PROOFS. What each event leaves of the parameters, of the ERR flags, of ON and of the bank that plays (O32, O12, O33,
O34). -/

namespace Sys2Proof.Machine

/-! ### Parameters (10_state.md R20) -/

theorem word_sameParameters {w : Word64} {s t : State} (h : runWord w s = .next t) : SameParameters s t := by
  rcases word_cases h with ⟨i, -, -, rfl⟩ | ⟨op, c, rfl⟩
  · exact (completed_sameParameters i s).trans (epilogue_sameParameters ..)
  · exact epilogue_sameParameters ..

/-- Settles O32: of the registers a write reaches only those below 0x060 hold parameters. -/
theorem onlyHostWritesChangeParameters : Obligations.OnlyHostWritesChangeParameters := by
  refine ⟨exec_sameParameters_sameOutside, fun s t e h hne hw => ?_⟩
  have hreply : SameParameters s { s with reply := .writeDone } := by constructor <;> rfl
  cases delivered_of_step h with
  | reset => exact absurd rfl hne
  | word _ _ h => exact hreply.trans (word_sameParameters h)
  | register r image data _ ha hr =>
    have := hw _ _ _ rfl ha
    exact hreply.trans (writeReg_sameParameters (by omega) ..)
  | answer => constructor <;> rfl

/-! ### ERR flags (10_state.md R38) -/

theorem word_keepsErrFlags {w : Word64} {s t : State} (h : runWord w s = .next t) : KeepsErrFlags s t := by
  rcases word_cases h with ⟨i, -, -, rfl⟩ | ⟨op, c, rfl⟩
  · exact (completed_keepsErrFlags i s).trans (.of_or rfl)
  · exact .of_or rfl

/-- No event but a reset or a legal write at 0x070 to 0x077 clears a flag. -/
theorem Delivered.keepsErrFlags {s t : State} {e : Event} (h : Delivered s e t) (hne : e ≠ .reset)
    (hw : ∀ off n v, e = .hostWrite off n v → RegisterAccess off n → off.toNat / 8 ≠ 0x070 / 8) :
    KeepsErrFlags s t := by
  cases h with
  | reset => exact absurd rfl hne
  | word _ _ h => exact word_keepsErrFlags (s := { s with reply := .writeDone }) h
  | register r image data _ ha hr =>
    have hne : r ≠ .err := by rintro rfl; exact hw _ _ _ rfl ha hr
    exact writeReg_keepsErrFlags hne image data { s with reply := .writeDone }
  | answer flags => exact .of_or (m := flags) rfl

/-! ### ON (10_state.md R43, 44_commands.md R207) -/

/-- What a completed command leaves in ON. -/
theorem completed_on (i : Instr) (s : State) :
    (completed i s).on = match i with
      | .activate => true
      | .deactivate => false
      | .nop | .render | .tick => s.on := by
  cases i <;> simp [completed]

theorem eq_activate_of_completed_on {i : Instr} {s : State} (hc : Completes i s) (h : s.on = false)
    (h' : (completed i s).on = true) : i = .activate ∧ Renderable (snapshot s) := by
  rw [completed_on] at h'
  cases i with
  | activate => exact ⟨rfl, hc.2⟩
  | deactivate => cases h'
  | nop | render | tick => exact absurd (h.symm.trans h') (by decide)

theorem eq_deactivate_of_completed_off {i : Instr} {s : State} (h : s.on = true) (h' : (completed i s).on = false) :
    i = .deactivate := by
  rw [completed_on] at h'
  cases i with
  | activate => cases h'
  | deactivate => rfl
  | nop | render | tick => exact absurd (h.symm.trans h') (by decide)

/-- An event that changes ON is a reset, or delivers a word whose command completes. -/
theorem Delivered.on_changes {s t : State} {e : Event} (h : Delivered s e t) (ho : t.on ≠ s.on) :
    (e = .reset ∧ t.on = false) ∨ ∃ off n v i, e = .hostWrite off n v ∧ RegisterAccess off n ∧
      off.toNat / 8 = 0x060 / 8 ∧ placedData off n v = encode i ∧ Completes i { s with reply := .writeDone } ∧
      t.on = (completed i { s with reply := .writeDone }).on := by
  cases h with
  | reset => exact .inl ⟨rfl, rfl⟩
  | word ha hr hw =>
    rcases word_cases hw with ⟨i, he, hc, rfl⟩ | ⟨op, c, rfl⟩
    · exact .inr ⟨_, _, _, i, rfl, ha, hr, he, hc, rfl⟩
    · exact absurd rfl ho
  | register r image data => exact absurd (writeReg_sameBanks r image data _).on ho
  | answer => exact absurd rfl ho

/-- Settles O33: the commands that change ON, one each way, and the reset. -/
theorem onlyActivateTurnsOnOnlyDeactivateTurnsOff : Obligations.OnlyActivateTurnsOnOnlyDeactivateTurnsOff := by
  intro s t e h
  have hd := delivered_of_step h
  constructor
  · intro hs ht
    rcases hd.on_changes (by rw [hs, ht]; decide) with ⟨-, hf⟩ | ⟨off, n, v, i, he, ha, hr, hw, hc, hon⟩
    · exact absurd (ht.symm.trans hf) (by decide)
    · obtain ⟨rfl, hrend⟩ := eq_activate_of_completed_on hc hs (hon.symm.trans ht)
      exact ⟨hrend, off, n, v, he, ha, hr, hw⟩
  · intro hs ht
    rcases hd.on_changes (by rw [hs, ht]; decide) with ⟨he, -⟩ | ⟨off, n, v, i, he, ha, hr, hw, -, hon⟩
    · exact .inl he
    · obtain rfl := eq_deactivate_of_completed_off (s := { s with reply := .writeDone }) hs (hon.symm.trans ht)
      exact .inr ⟨off, n, v, he, ha, hr, hw⟩

/-! ### The bank that plays (10_state.md R36) -/

/-- The two states hold the same length and the same bytes of one bank's window. -/
structure SameBank (b : Bank) (s t : State) : Prop where
  length : t.bankLen b = s.bankLen b
  bytes : ∀ a, b.base ≤ a → a < b.base + 2 ^ 22 →
    memByte? t.mem a = memByte? s.mem a ∧ t.byteAt a = s.byteAt a

theorem SameBank.trans {b : Bank} {s t u : State} (h : SameBank b s t) (h' : SameBank b t u) : SameBank b s u where
  length := h'.length.trans h.length
  bytes a h1 h2 :=
    have ⟨hm, hb⟩ := h.bytes a h1 h2
    have ⟨hm', hb'⟩ := h'.bytes a h1 h2
    ⟨hm'.trans hm, hb'.trans hb⟩

theorem SameBank.of_eq {b : Bank} {s t : State} (hl : t.bankLen b = s.bankLen b) (hm : t.mem = s.mem)
    (hd : t.drawEpoch = s.drawEpoch) : SameBank b s t where
  length := hl
  bytes a _ _ := by unfold State.byteAt; rw [hm, hd]; exact ⟨rfl, rfl⟩

theorem SameBanks.sameBank {s t : State} (h : SameBanks s t) (hd : t.drawEpoch = s.drawEpoch) (b : Bank) :
    SameBank b s t :=
  .of_eq (h.bankLen b) h.mem hd

theorem commit_sameBank {s : State} (h : Renderable (snapshot s)) (b : Bank) :
    SameBank b s (commit b.other (renderResult (snapshot s)) s) :=
  have hr := commit_renderedInto (tb := b.other) h
  { length := by simpa using hr.otherLength
    bytes := fun a h1 h2 => hr.outside_window h.fits b.other_ne.symm ⟨h1, h2⟩ }

/-- No completed command touches the bank that was playing: it renders into the other one (20_memory.md R70). -/
theorem completed_sameBank {i : Instr} {s : State} (hc : Completes i s) : SameBank s.playBank s (completed i s) := by
  cases i with
  | nop | deactivate => exact .of_eq rfl rfl rfl
  | render => exact commit_sameBank hc _
  | activate | tick =>
    simp only [completed]
    exact (commit_sameBank hc.2 _).trans (.of_eq rfl rfl rfl)

/-- Settles O34. ON plays no part: PLAY_BANK's bank is never a render's target. -/
theorem playingBankIsNeverWritten : Obligations.PlayingBankIsNeverWritten := by
  intro s t e _ hne h
  have hreply : SameBank s.playBank s { s with reply := .writeDone } := .of_eq rfl rfl rfl
  suffices SameBank s.playBank s t from ⟨this.length, this.bytes⟩
  cases delivered_of_step h with
  | reset => exact absurd rfl hne
  | word _ _ hw =>
    rcases word_cases hw with ⟨i, -, hc, rfl⟩ | ⟨op, c, rfl⟩
    · exact (hreply.trans (completed_sameBank hc)).trans ((epilogue_sameBanks ..).sameBank rfl _)
    · exact hreply.trans ((epilogue_sameBanks ..).sameBank rfl _)
  | register r image data =>
    exact hreply.trans ((writeReg_sameBanks ..).sameBank (writeReg_sameOutside ..).drawEpoch _)
  | answer => exact .of_eq rfl rfl rfl

end Sys2Proof.Machine
end

section
/-! PROOFS. Legal writes to the registers: which bits they store, and what they leave (O9, O10, O11, O12, O14), and the
images of STATUS and CAPACITY (O18, O20). -/

namespace Sys2Proof.Machine

/-! ### Where a write reaches -/

theorem Reg.offset_bounds (r : Reg) : r.offset % 8 = 0 ∧ r.offset ≤ 0x0A8 := by cases r <;> decide

theorem registerAccess_low {r : Reg} {off : Offset} {n : Nat} (hoff : off.toNat = r.offset) (hn : n = 4 ∨ n = 8) :
    RegisterAccess off n := by
  have := r.offset_bounds
  exact ⟨hn, by rcases hn with rfl | rfl <;> omega, by omega⟩

theorem registerAccess_high {r : Reg} {off : Offset} (hoff : off.toNat = r.offset + 4) : RegisterAccess off 4 := by
  have := r.offset_bounds
  exact ⟨.inl rfl, by omega, by omega⟩

/-- The step of a legal write to a register other than CMD (10_state.md R46). -/
theorem step_regWrite {off : Offset} {n : Nat} {r : Reg} (h : RegisterAccess off n)
    (hr : off.toNat / 8 = r.offset / 8) (hc : r ≠ .cmd) (s : State) (v : Word64) :
    step (s.withEvent (.hostWrite off n v)) =
      .next (writeReg r (mergedImage (regImage s r) off n v) (placedData off n v) { s with reply := .writeDone }) :=
  hostWrite_reg h hr hc v _

theorem step_regWrite_low {off : Offset} {n : Nat} {r : Reg} (hoff : off.toNat = r.offset) (hn : n = 4 ∨ n = 8)
    (hc : r ≠ .cmd) (s : State) (v : Word64) :
    step (s.withEvent (.hostWrite off n v)) =
      .next (writeReg r (mergedImage (regImage s r) off n v) (placedData off n v) { s with reply := .writeDone }) :=
  step_regWrite (registerAccess_low hoff hn) (by omega) hc s v

theorem step_regWrite_high {off : Offset} {r : Reg} (hoff : off.toNat = r.offset + 4) (hc : r ≠ .cmd)
    (s : State) (v : Word64) :
    step (s.withEvent (.hostWrite off 4 v)) =
      .next (writeReg r (mergedImage (regImage s r) off 4 v) (placedData off 4 v) { s with reply := .writeDone }) :=
  step_regWrite (registerAccess_high hoff) (by have := r.offset_bounds; omega) hc s v

/-! ### The low half of the written image (10_state.md R46) -/

theorem mergedImage_low {off : Offset} {n k : Nat} (hoff : off.toNat % 8 = 0) (hn : n = 4 ∨ n = 8) (hk : k ≤ 32)
    (old v : Word64) : (mergedImage old off n v).setWidth k = v.extractLsb' 0 k := by
  refine BitVec.eq_of_getLsbD_eq fun i hi => ?_
  rw [BitVec.getLsbD_setWidth, getLsbD_mergedImage _ _ _ _ _ (by omega), byteShift, hoff, if_pos (by omega)]
  simp [hi]

theorem mergedImage_high_keeps_low {off : Offset} {k : Nat} (hoff : off.toNat % 8 = 4) (hk : k ≤ 32)
    (old v : Word64) : (mergedImage old off 4 v).setWidth k = old.setWidth k := by
  refine BitVec.eq_of_getLsbD_eq fun i hi => ?_
  rw [BitVec.getLsbD_setWidth, getLsbD_mergedImage _ _ _ _ _ (by omega), byteShift, hoff, if_neg (by omega),
    BitVec.getLsbD_setWidth]

theorem placedData_low {off : Offset} {n k : Nat} (hoff : off.toNat % 8 = 0) (hn : n = 4 ∨ n = 8) (hk : k ≤ 32)
    (v : Word64) : (placedData off n v).setWidth k = v.extractLsb' 0 k := by
  refine BitVec.eq_of_getLsbD_eq fun i hi => ?_
  rw [BitVec.getLsbD_setWidth, getLsbD_placedData _ _ _ _ (by omega), byteShift, hoff]
  simp [hi, show i < 8 * n by omega]

theorem placedData_high_low {off : Offset} {k : Nat} (hoff : off.toNat % 8 = 4) (hk : k ≤ 32) (v : Word64) :
    (placedData off 4 v).setWidth k = 0 := by
  refine BitVec.eq_of_getLsbD_eq fun i hi => ?_
  rw [BitVec.getLsbD_setWidth, getLsbD_placedData _ _ _ _ (by omega), byteShift, hoff]
  simp [show i < 8 * 4 by omega]

/-! ### The binary64 registers (10_state.md R25) -/

/-- A write to a binary64 register stores the merged image whole, and no other register reads differently. -/
theorem regImage_writeReg_real {r : Reg} (hr : r ∈ realRegs) (image data : Word64) (s : State) (r' : Reg) :
    regImage (writeReg r image data s) r' = if r' = r then image else regImage s r' := by
  simp only [realRegs, List.mem_cons, List.not_mem_nil, or_false] at hr
  rcases hr with rfl | rfl | rfl | rfl | rfl | rfl | rfl | rfl <;> cases r' <;> rfl

theorem ne_cmd_of_real {r : Reg} (hr : r ∈ realRegs) : r ≠ .cmd := by rintro rfl; exact absurd hr (by decide)

/-- Settles O9: one write rule for the eight registers, at each of the three places a legal write may take. -/
theorem realRegisterWritesMerge : Obligations.RealRegisterWritesMerge := by
  intro s r v hr full upper written
  have hc := ne_cmd_of_real hr
  have hb := r.offset_bounds
  have hfull : full.toNat = r.offset := Nat.mod_eq_of_lt (by omega)
  have hupper : upper.toNat = r.offset + 4 := Nat.mod_eq_of_lt (by omega)
  have hwritten : ∀ off n, RegisterAccess off n → off.toNat / 8 = r.offset / 8 →
      written off n (mergedImage (regImage s r) off n v) := by
    intro off n ha ho
    have himage := regImage_writeReg_real hr (mergedImage (regImage s r) off n v) (placedData off n v)
      { s with reply := .writeDone }
    have hout := writeReg_sameOutside r (mergedImage (regImage s r) off n v) (placedData off n v)
      { s with reply := .writeDone }
    exact ⟨_, step_regWrite ha ho hc s v, (himage r).trans (if_pos rfl), fun r' hne => (himage r').trans (if_neg hne),
      (writeReg_sameBanks ..).mem, hout.inbox, hout.reply, hout.drawEpoch, hout.sinkDraws⟩
  obtain ⟨himage8, himage4, -⟩ := mergedImage_eq (regImage s r) full v
  obtain ⟨-, -, himageUpper⟩ := mergedImage_eq (regImage s r) upper v
  refine ⟨?_, ?_, ?_⟩
  · rw [← himage8 (by omega)]
    exact hwritten full 8 (registerAccess_low hfull (.inr rfl)) (by omega)
  · rw [← himage4 (by omega)]
    exact hwritten full 4 (registerAccess_low hfull (.inl rfl)) (by omega)
  · rw [← himageUpper (by omega)]
    exact hwritten upper 4 (registerAccess_high hupper) (by omega)

/-! ### CTRL, SAMPLE_RATE_HZ and DURATION_MS (10_state.md R23, R32, R33) -/

theorem setWidth_setWidth_self {k : Nat} (hk : k ≤ 64) (x : BitVec k) : (x.setWidth 64).setWidth k = x := by
  rw [BitVec.setWidth_setWidth_of_le _ hk, BitVec.setWidth_eq]

/-- Settles O10: the low half of the merged image is the written data's, or the register's own. -/
theorem narrowRegisterWritesKeepTheirBits : Obligations.NarrowRegisterWritesKeepTheirBits := by
  intro s v n hn
  refine ⟨?_, ?_, ?_, ?_, ?_, ?_⟩
  · rw [step_regWrite_low (r := .ctrl) rfl hn (by decide), writeReg, mergedImage_low rfl hn (by decide)]
  · rw [step_regWrite_low (r := .sampleRateHz) rfl hn (by decide), writeReg, mergedImage_low rfl hn (by decide)]
  · rw [step_regWrite_low (r := .durationMs) rfl hn (by decide), writeReg, mergedImage_low rfl hn (by decide)]
  · rw [step_regWrite_high (r := .ctrl) rfl (by decide), writeReg, mergedImage_high_keeps_low rfl (by decide),
      regImage, setWidth_setWidth_self (by decide)]
  · rw [step_regWrite_high (r := .sampleRateHz) rfl (by decide), writeReg,
      mergedImage_high_keeps_low rfl (by decide), regImage, setWidth_setWidth_self (by decide)]
  · rw [step_regWrite_high (r := .durationMs) rfl (by decide), writeReg,
      mergedImage_high_keeps_low rfl (by decide), regImage, setWidth_setWidth_self (by decide)]

/-! ### WAVE (10_state.md R24) -/

theorem waveKind?_code (k : WaveKind) : waveKind? k.code = some k := by cases k <;> rfl

theorem waveKind?_of_illegal {c : Byte} (h : 3 < c.toNat) : waveKind? c = none := by
  unfold waveKind?
  split
  case h_5 => rfl
  all_goals omega

theorem writeWave_of_code {image : Word64} {k : WaveKind} (h : image.setWidth 8 = k.code) (s : State) :
    writeWave image s = { s with wave := k } := by
  rcases writeWave_cases image s with ⟨k', hk, hw⟩ | ⟨hk, -⟩ <;> rw [h, waveKind?_code] at hk <;> cases hk
  exact hw

theorem writeWave_of_illegal {image : Word64} (h : 3 < (image.setWidth 8 : Byte).toNat) (s : State) :
    writeWave image s = setErr badKindFlag s := by
  rcases writeWave_cases image s with ⟨k, hk, -⟩ | ⟨-, hw⟩
  · rw [waveKind?_of_illegal h] at hk; cases hk
  · exact hw

/-- Settles O11: what WAVE decides on, bits 7:0 of the merged image, is written by a low write
and kept by a high one. -/
theorem waveWriteStoresOrRefuses : Obligations.WaveWriteStoresOrRefuses := by
  refine ⟨⟨rfl, rfl, rfl, rfl, rfl⟩, fun s v n hn => ?_⟩
  have hlow : (mergedImage (regImage s .wave) 0x008 n v).setWidth 8 = v.extractLsb' 0 8 :=
    mergedImage_low rfl hn (by decide) _ v
  have hstep := step_regWrite_low (off := 0x008) (r := .wave) rfl hn (by decide) s v
  refine ⟨fun k hk => ?_, fun hk => ?_, ?_, rfl, ?_⟩
  · rw [hstep, writeReg, writeWave_of_code (hlow.trans hk)]
  · rw [hstep, writeReg, writeWave_of_illegal (by rwa [hlow])]
    rfl
  · have hkeep : (mergedImage (regImage s .wave) 0x00C 4 v).setWidth 8 = s.wave.code :=
      (mergedImage_high_keeps_low rfl (by decide) _ v).trans (setWidth_setWidth_self (by decide) _)
    rw [step_regWrite_high (r := .wave) rfl (by decide), writeReg, writeWave_of_code hkeep]
  · rw [regImage]
    cases s.wave <;> decide

/-! ### ERR (10_state.md R38) -/

theorem clearErr_zero (s : State) : clearErr 0 s = s := by
  rw [clearErr, show ~~~(0 : BitVec 8) = BitVec.allOnes 8 from rfl, BitVec.and_allOnes]

/-- Settles O12: write-one-to-clear from the written bits 7:0, stickiness from `Delivered.keepsErrFlags`. -/
theorem errFlagsAreStickyAndWriteOneToClear : Obligations.ErrFlagsAreStickyAndWriteOneToClear := by
  refine ⟨fun s v n hn => ⟨?_, ?_⟩, fun s t e h => (delivered_of_step h).keepsErrFlags⟩
  · rw [step_regWrite_low (r := .err) rfl hn (by decide), writeReg, placedData_low rfl hn (by decide)]
    rfl
  · rw [step_regWrite_high (r := .err) rfl (by decide), writeReg, placedData_high_low rfl (by decide), clearErr_zero]

/-! ### The read-only registers (10_state.md R46) -/

theorem writeReg_readOnly {r : Reg} (hr : r ∈ readOnlyRegs) (image data : Word64) (s : State) :
    writeReg r image data s = s := by
  simp only [readOnlyRegs, List.mem_cons, List.not_mem_nil, or_false] at hr
  rcases hr with rfl | rfl | rfl | rfl | rfl | rfl | rfl | rfl <;> rfl

/-- Settles O14: `writeReg` is the identity at every read-only register. -/
theorem readOnlyRegistersIgnoreWrites : Obligations.ReadOnlyRegistersIgnoreWrites := by
  intro s r off n v hr ha ho
  have hc : r ≠ .cmd := by rintro rfl; exact absurd hr (by decide)
  rw [step_regWrite ha ho hc, writeReg_readOnly hr]

/-! ### STATUS and CAPACITY (10_state.md R35, R41) -/

/-- A bit of a field of width `w` placed at bit `p` of a 64-bit image. -/
theorem getLsbD_field_inside {w p i : Nat} (x : BitVec w) (hp : p ≤ i) (hi : i < p + w) (hw : p + w ≤ 64) :
    (x.setWidth 64 <<< p).getLsbD i = x.getLsbD (i - p) := by
  rw [BitVec.getLsbD_shiftLeft, BitVec.getLsbD_setWidth]
  simp [show i < 64 by omega, show ¬ i < p by omega, show i - p < 64 by omega]

theorem getLsbD_field_outside {w p i : Nat} (x : BitVec w) (h : i < p ∨ p + w ≤ i) :
    (x.setWidth 64 <<< p).getLsbD i = false := by
  rw [BitVec.getLsbD_shiftLeft, BitVec.getLsbD_setWidth]
  rcases h with h | h
  · simp [h]
  · simp [BitVec.getLsbD_of_ge x (i - p) (by omega)]

/-- A bit of STATUS is the bit of the one field that holds it (10_state.md R35). -/
theorem getLsbD_status (s : State) (i : Nat) : (regImage s .status).getLsbD i =
    (((BitVec.ofBool s.on).setWidth 64 <<< 0).getLsbD i || (s.playBank.bit.setWidth 64 <<< 1).getLsbD i ||
      (s.lastBank.bit.setWidth 64 <<< 2).getLsbD i || ((BitVec.ofBool s.lastValid).setWidth 64 <<< 3).getLsbD i ||
      (s.result.code.setWidth 64 <<< 8).getLsbD i || (s.lastOp.setWidth 64 <<< 16).getLsbD i) := by
  rw [regImage, statusImage, BitVec.shiftLeft_zero]
  simp only [BitVec.getLsbD_or]

/-- Settles O18: at each range of bits one field, or none, has a bit there. -/
theorem statusFieldsStandAtTheirBits : Obligations.StatusFieldsStandAtTheirBits := by
  refine ⟨by decide, fun s => ⟨?_, ?_, ?_, ?_, ?_, ?_, ?_, ?_, ?_⟩⟩
  case refine_1 | refine_4 =>
    rw [getLsbD_status]
    simp (disch := omega) only [getLsbD_field_outside, getLsbD_field_inside]
    simp
  all_goals
    refine BitVec.eq_of_getLsbD_eq fun i hi => ?_
    rw [BitVec.getLsbD_extractLsb', getLsbD_status]
    simp (disch := omega) only [getLsbD_field_outside, getLsbD_field_inside]
    simp [hi]

/-- Settles O20, by the bounds of BUF_CAPACITY (00_scope.md R6). -/
theorem capacityReadsTheParameter : Obligations.CapacityReadsTheParameter := by
  intro s
  obtain ⟨hlo, hhi⟩ := bufCapacity_bounds
  have hnat : (regImage s .capacity).toNat = bufCapacity := Nat.mod_eq_of_lt (by omega)
  refine ⟨hnat, BitVec.eq_of_toNat_eq ?_, hlo, hhi⟩
  rw [BitVec.extractLsb'_toNat, hnat, Nat.shiftRight_eq_div_pow, Nat.div_eq_of_lt (by omega)]
  rfl

end Sys2Proof.Machine
end

section
/-! PROOFS. The playback port (O36), and what plays over a run with no TICK, no DEACTIVATE and no reset among its events
(O35) (20_memory.md R75, R76). -/

namespace Sys2Proof.Machine

/-! ### What a step consumes of the inbox -/

theorem word_sameOutside {w : Word64} {s t : State} (h : runWord w s = .next t) : SameOutside s t := by
  rcases word_cases h with ⟨i, -, -, rfl⟩ | ⟨op, c, rfl⟩
  · exact (completed_sameOutside i s).trans (epilogue_sameOutside ..)
  · exact epilogue_sameOutside ..

/-- No event changes the events that come after it, a reset neither (log entry 13). -/
theorem Delivered.inbox {s t : State} {e : Event} (h : Delivered s e t) : t.inbox = s.inbox := by
  cases h with
  | word _ _ hw => exact (word_sameOutside hw).inbox
  | register r image data => exact (writeReg_sameOutside r image data _).inbox
  | reset | answer => rfl

theorem step_inbox {s t : State} (h : step s = .next t) : t.inbox = s.inbox.tail := by
  unfold step at h
  cases hi : s.inbox with
  | nil => rw [hi] at h; cases h; exact hi
  | cons e rest => rw [hi] at h; exact (delivered_of_step (s := { s with inbox := rest }) h).inbox

/-- A run of one step more is a step and the rest of the run. -/
theorem run_succ {M : Host.Core} {k : Nat} {s t : M.State} (h : M.run (k + 1) s = .next t) :
    ∃ u, M.step s = .next u ∧ M.run k u = .next t := by
  rw [Host.Core.run] at h
  split at h
  case h_1 u hu => exact ⟨u, hu, h⟩
  all_goals cases h

/-! ### What plays -/

/-- The two states play the same: ON, PLAY_BANK, and the length and the bytes of the bank that plays. -/
structure SamePlayback (s t : State) : Prop where
  on : t.on = s.on
  playBank : t.playBank = s.playBank
  bank : SameBank s.playBank s t

theorem SamePlayback.refl (s : State) : SamePlayback s s := ⟨rfl, rfl, .of_eq rfl rfl rfl⟩

theorem SamePlayback.trans {s t u : State} (h : SamePlayback s t) (h' : SamePlayback t u) : SamePlayback s u where
  on := h'.on.trans h.on
  playBank := h'.playBank.trans h.playBank
  bank := h.bank.trans (h.playBank ▸ h'.bank)

theorem SamePlayback.playLen {s t : State} (h : SamePlayback s t) : t.playLen = s.playLen := by
  unfold State.playLen
  rw [h.playBank, h.bank.length]

/-- The words of a bank's whole window lie in the bytes that stay the same (20_memory.md R62). -/
theorem SameBank.bankWord {b : Bank} {s t : State} (h : SameBank b s t) {i : Nat} (hi : i < 2 ^ 21) :
    t.bankWord b i = s.bankWord b i := by
  have hbyte : ∀ a, a = wordOffset b i ∨ a = wordOffset b i + 1 → t.byteAt a = s.byteAt a := by
    intro a ha
    unfold wordOffset at ha
    exact (h.bytes a (by omega) (by omega)).2
  unfold State.bankWord
  rw [hbyte _ (.inl rfl), hbyte _ (.inr rfl)]

theorem decode_encode (i : Instr) : decode (encode i) = .ok i := by cases i <;> rfl

/-- In On only TICK and DEACTIVATE, of the commands that complete, touch ON or PLAY_BANK: ACTIVATE is refused
(44_commands.md R202 to R206). -/
theorem completed_on_playBank {i : Instr} {s : State} (hc : Completes i s) (ho : s.on = true) (ht : i ≠ .tick)
    (hd : i ≠ .deactivate) : (completed i s).on = s.on ∧ (completed i s).playBank = s.playBank := by
  cases i with
  | nop => exact ⟨rfl, rfl⟩
  | render => exact ⟨commit_on .., commit_playBank ..⟩
  | activate => exact absurd (ho.symm.trans hc.1) (by decide)
  | deactivate => exact absurd rfl hd
  | tick => exact absurd rfl ht

theorem Delivered.on_playBank {s t : State} {e : Event} (h : Delivered s e t) (ho : s.on = true)
    (hk : KeepsPlaying e) : t.on = s.on ∧ t.playBank = s.playBank := by
  cases h with
  | reset => exact hk.elim
  | word ha hr hw =>
    obtain ⟨htick, hdeact⟩ := hk ha hr
    rcases word_cases hw with ⟨i, he, hc, rfl⟩ | ⟨op, c, rfl⟩
    · rw [he, decode_encode] at htick hdeact
      exact completed_on_playBank hc ho (fun h => htick (h ▸ rfl)) (fun h => hdeact (h ▸ rfl))
    · exact ⟨rfl, rfl⟩
  | register r image data =>
    have hsame := writeReg_sameBanks r image data { s with reply := .writeDone }
    exact ⟨hsame.on, hsame.playBank⟩
  | answer => exact ⟨rfl, rfl⟩

/-- One step plays on: the bytes by `playingBankIsNeverWritten`, ON and PLAY_BANK by the event. -/
theorem step_samePlayback {s t : State} (h : step s = .next t) (ho : s.on = true)
    (hk : ∀ e ∈ s.inbox.take 1, KeepsPlaying e) : SamePlayback s t := by
  rcases step_cases h with rfl | ⟨e, rest, hi, he⟩
  · exact .refl _
  · have hke : KeepsPlaying e := hk e (by rw [hi]; exact List.mem_singleton_self e)
    have hne : e ≠ .reset := by rintro rfl; exact hke
    obtain ⟨hon, hbank⟩ := (delivered_of_step he).on_playBank ho hke
    obtain ⟨hlen, hbytes⟩ := playingBankIsNeverWritten { s with inbox := rest } t e ho hne he
    exact ⟨hon, hbank, hlen, hbytes⟩

theorem run_samePlayback (k : Nat) {s t : State} (h : Host.Core.run Sys2Proof.core k s = .next t) (ho : s.on = true)
    (hk : ∀ e ∈ s.inbox.take k, KeepsPlaying e) : SamePlayback s t := by
  induction k generalizing s with
  | zero => cases h; exact .refl _
  | succ k ih =>
    obtain ⟨u, hstep, hrun⟩ := run_succ h
    have hsu : SamePlayback s u := step_samePlayback hstep ho fun e he =>
      hk e (List.take_subset_take_left _ (Nat.le_add_left 1 k) he)
    refine hsu.trans (ih hrun (hsu.on.trans ho) fun e he => hk e (List.mem_of_mem_tail ?_))
    rwa [List.tail_take_eq_take_tail, ← step_inbox hstep]

/-- Settles O35, by induction on the number of steps. -/
theorem sinkBufferIsStableUntilTickOrDeactivate : Obligations.SinkBufferIsStableUntilTickOrDeactivate := by
  intro k s t ho hk h
  have hplay := run_samePlayback k h ho hk
  exact ⟨hplay.on.trans ho, hplay.playBank, hplay.playLen, fun i hi => hplay.bank.bankWord hi⟩

/-! ### Sink reads -/

/-- Settles O36: the two cases of a sink read. -/
theorem sinkReadReturnsTheWordOrAnyValue : Obligations.SinkReadReturnsTheWordOrAnyValue := by
  refine ⟨fun s => ⟨rfl, rfl⟩, fun s b i => ?_⟩
  rcases sinkRead_cases b i s with ⟨hdef, h⟩ | ⟨hrace, h⟩
  · exact ⟨fun _ _ _ => congrArg _ h, fun hn => absurd hdef hn⟩
  · exact ⟨fun ho hb hi => absurd ⟨ho, hb, hi⟩ hrace, fun _ => congrArg _ h⟩

end Sys2Proof.Machine
end

section
/-! PROOFS. Host reads and illegal accesses (O15, O16, O17), and the host's addresses (O21) (20_memory.md R60 to
R68). -/

namespace Sys2Proof.Machine

/-! ### Illegal accesses (20_memory.md R67) -/

/-- Settles O15: legality decides the case of a read and of a write. -/
theorem illegalAccessOnlySetsBadAccess : Obligations.IllegalAccessOnlySetsBadAccess := by
  refine fun s off n v => ⟨fun hill => ?_, fun hill => ?_⟩
  · rcases hostRead_cases off n s with ⟨r, ha, -, -⟩ | ⟨hb, -⟩ | ⟨-, h⟩
    · exact absurd (.inl ha) hill
    · exact absurd (.inr hb) hill
    · exact congrArg _ h
  · rcases hostWrite_cases off n v { s with reply := .writeDone } with ⟨ha, -, -⟩ | ⟨r, -, ha, -, -⟩ | ⟨-, h⟩
    · exact absurd ha hill
    · exact absurd ha hill
    · exact h

/-! ### Register reads (20_memory.md R64) -/

/-- The step of a legal register read. -/
theorem step_regRead {off : Offset} {n : Nat} {r : Reg} (h : RegisterAccess off n) (hr : off.toNat / 8 = r.offset / 8)
    (s : State) :
    step (s.withEvent (.hostRead off n)) = .next { s with reply := .hostData n (regBytes s r off n) } := by
  rcases hostRead_cases off n s with ⟨r', -, hr', e⟩ | ⟨⟨b, hb⟩, -⟩ | ⟨hill, -⟩
  · rw [reg_of_offset (hr.symm.trans hr')]
    exact congrArg _ e
  · exact absurd h (bankAccess_not_register hb)
  · exact absurd (.inl h) hill

theorem toNat_byteMask {n : Nat} (hn : n ≤ 8) : (byteMask n).toNat = 2 ^ (8 * n) - 1 := by
  have : 2 ^ (8 * n) ≤ 2 ^ 64 := Nat.pow_le_pow_right (by decide) (by omega)
  exact Nat.mod_eq_of_lt (by omega)

theorem toNat_regBytes (s : State) (r : Reg) (off : Offset) {n : Nat} (hn : n ≤ 8) :
    (regBytes s r off n).toNat = (regImage s r).toNat / 2 ^ (8 * (off.toNat % 8)) % 2 ^ (8 * n) := by
  rw [regBytes, BitVec.toNat_and, toNat_byteMask hn, Nat.and_two_pow_sub_one_eq_mod, BitVec.toNat_ushiftRight,
    Nat.shiftRight_eq_div_pow, byteShift]

/-- The 64-bit read at a register's offset answers its whole image. -/
theorem step_regRead_whole (r : Reg) (s : State) :
    step (s.withEvent (.hostRead (BitVec.ofNat 24 r.offset) 8)) =
      .next { s with reply := .hostData 8 (regImage s r) } := by
  have hb := r.offset_bounds
  have hoff : (BitVec.ofNat 24 r.offset : Offset).toNat = r.offset := Nat.mod_eq_of_lt (by omega)
  have himage : regBytes s r (BitVec.ofNat 24 r.offset) 8 = regImage s r := BitVec.eq_of_toNat_eq (by
    rw [toNat_regBytes s r _ (Nat.le_refl 8), hoff, hb.1, Nat.mul_zero, Nat.pow_zero, Nat.div_one,
      Nat.mod_eq_of_lt (regImage s r).isLt])
  rw [step_regRead (registerAccess_low hoff (.inr rfl)) (by rw [hoff]), himage]

/-! ### Bank reads (20_memory.md R62, R68) -/

/-- The step of a legal bank read. -/
theorem step_bankRead {off : Offset} {n : Nat} {b : Bank} (h : BankAccess b off n) (s : State) :
    step (s.withEvent (.hostRead off n)) = .next { s with reply := .hostData n (bankBytes s off n) } := by
  rcases hostRead_cases off n s with ⟨r, ha, -, -⟩ | ⟨-, e⟩ | ⟨hill, -⟩
  · exact absurd ha (bankAccess_not_register h)
  · exact congrArg _ e
  · exact absurd (.inr ⟨b, h⟩) hill

theorem toNat_wordOfBytes_lt (bs : List Byte) : (wordOfBytes bs).toNat < 2 ^ (8 * bs.length) := by
  induction bs with
  | nil => decide
  | cons b bs ih =>
    have hpow : 2 ^ (8 * (b :: bs).length) = 2 ^ (8 * bs.length) * 2 ^ 8 := by
      rw [List.length_cons, Nat.mul_succ, Nat.pow_add]
    rw [wordOfBytes, BitVec.toNat_or]
    refine Nat.or_lt_two_pow ?_ ?_ <;> rw [hpow]
    · rw [BitVec.toNat_shiftLeft, Nat.shiftLeft_eq]
      exact (Nat.mod_le ..).trans_lt (Nat.mul_lt_mul_of_pos_right ih (by decide))
    · rw [BitVec.toNat_setWidth]
      have := b.isLt
      have := Nat.two_pow_pos (8 * bs.length)
      exact (Nat.mod_le ..).trans_lt (by omega)

/-- Byte `k` of a word is the byte at place `k` of its list, lowest address first. -/
theorem extractByte_wordOfBytes (bs : List Byte) {k : Nat} (hk : k < bs.length) (h8 : k < 8) :
    (wordOfBytes bs).extractLsb' (8 * k) 8 = bs[k] := by
  induction bs generalizing k with
  | nil => exact absurd hk (Nat.not_lt_zero k)
  | cons b bs ih =>
    cases k with
    | zero =>
      refine BitVec.eq_of_getLsbD_eq fun i hi => ?_
      simp [wordOfBytes, hi, show i < 64 by omega]
    | succ k =>
      rw [List.getElem_cons_succ, ← ih (Nat.lt_of_succ_lt_succ hk) (by omega)]
      refine BitVec.eq_of_getLsbD_eq fun i hi => ?_
      have hplace : 8 * (k + 1) + i = 8 * k + i + 8 := by omega
      rw [BitVec.getLsbD_extractLsb', BitVec.getLsbD_extractLsb', hplace, wordOfBytes, BitVec.getLsbD_or,
        BitVec.getLsbD_shiftLeft, BitVec.getLsbD_setWidth, BitVec.getLsbD_of_ge b _ (by omega), Nat.add_sub_cancel]
      simp [show 8 * k + i + 8 < 64 by omega]

theorem extractByte_bankBytes (s : State) (off : Offset) {n k : Nat} (hn : n ≤ 8) (hk : k < n) :
    (bankBytes s off n).extractLsb' (8 * k) 8 = s.byteAt (off.toNat + k) := by
  rw [bankBytes, extractByte_wordOfBytes _ (by simpa using hk) (by omega)]
  simp

theorem toNat_bankBytes_lt (s : State) (off : Offset) (n : Nat) : (bankBytes s off n).toNat < 2 ^ (8 * n) := by
  simpa [bankBytes] using toNat_wordOfBytes_lt ((List.range n).map fun k => s.byteAt (off.toNat + k))

/-- Settles O16: the list pairs each register with its offset and its image by definition; then the bytes
of a register read and of a bank read. -/
theorem legalReadAnswersWithoutSideEffect : Obligations.LegalReadAnswersWithoutSideEffect := by
  refine ⟨fun s => ?_, fun s => ⟨rfl, rfl⟩, fun s off n => ⟨fun r ha hr => ?_, fun b hb => ?_⟩⟩
  · intro registers e he
    have hmap : e ∈ (registers.map Prod.fst).map fun r => (r, r.offset, regImage s r) := he
    obtain ⟨r, -, rfl⟩ := List.mem_map.mp hmap
    exact ⟨rfl, rfl, step_regRead_whole r s⟩
  · have hbounds := r.offset_bounds
    have hplace : off.toNat - r.offset = off.toNat % 8 := by omega
    have hn : n ≤ 8 := by have := ha.1; omega
    exact ⟨_, step_regRead ha hr s, by rw [hplace, toNat_regBytes s r off hn]⟩
  · have hn : n ≤ 8 := by have := hb.1; omega
    exact ⟨_, step_bankRead hb s, toNat_bankBytes_lt s off n, fun k hk => extractByte_bankBytes s off hn hk⟩

theorem Bank.base_bounds (b : Bank) : b.base % 8 = 0 ∧ b.base ≤ 0x800000 := by cases b <;> decide

/-- The offset of a word is a block offset, and the read that begins there and stays in the mapped words is legal. -/
theorem bankAccess_word {b : Bank} {j m : Nat} (hm : m = 1 ∨ m = 2 ∨ m = 4) (hj : j % m = 0)
    (hfit : j + m ≤ bufCapacity) :
    (BitVec.ofNat 24 (wordOffset b j) : Offset).toNat = wordOffset b j ∧
      BankAccess b (BitVec.ofNat 24 (wordOffset b j)) (2 * m) := by
  have hcap := bufCapacity_bounds
  have hbase := b.base_bounds
  have hword : wordOffset b j = b.base + 2 * j := rfl
  have hoff : (BitVec.ofNat 24 (wordOffset b j) : Offset).toNat = wordOffset b j := Nat.mod_eq_of_lt (by omega)
  refine ⟨hoff, by omega, ?_, fun k hk => by omega⟩
  rw [hoff]
  rcases hm with rfl | rfl | rfl <;> omega

/-- Settles O17: word `j + k` is bytes `2k` and `2k + 1` of the answer, the low one first. -/
theorem bankReadsAreLittleEndianWords : Obligations.BankReadsAreLittleEndianWords := by
  refine ⟨⟨rfl, rfl⟩, fun s b j m hm hj hfit => ?_⟩
  obtain ⟨hoff, ha⟩ := bankAccess_word (b := b) hm hj hfit
  refine ⟨_, step_bankRead ha s, fun k hk => ?_⟩
  have hbyte : ∀ i, i < 2 * m → (bankBytes s (BitVec.ofNat 24 (wordOffset b j)) (2 * m)).extractLsb' (8 * i) 8 =
      s.byteAt (wordOffset b j + i) := fun i hi => by
    rw [extractByte_bankBytes s _ (by omega) hi, hoff]
  have hlow : wordOffset b (j + k) = wordOffset b j + 2 * k := by unfold wordOffset; omega
  rw [State.bankWord, hlow, Nat.add_assoc, ← hbyte (2 * k) (by omega), ← hbyte (2 * k + 1) (by omega),
    BitVec.extractLsb'_append_extractLsb'_eq_extractLsb' (by omega), ← Nat.mul_assoc]

/-! ### Host addresses (20_memory.md R60) -/

/-- The offset a host address reaches is the one whose host address it is, if there is one. -/
theorem blockOffset?_eq_some_iff (a : Nat) (off : Offset) : blockOffset? a = some off ↔ hostAddress off = a := by
  have hlt := off.isLt
  unfold blockOffset? hostAddress
  generalize blockBase = base
  constructor
  · intro h
    split at h
    case isFalse => cases h
    case isTrue ha =>
      cases h
      rw [BitVec.toNat_ofNat, Nat.mod_eq_of_lt (by omega)]
      omega
  · rintro rfl
    rw [if_pos (by omega), Nat.add_sub_cancel_left, BitVec.ofNat_toNat, BitVec.setWidth_eq]

/-- Settles O21, from the map read both ways. -/
theorem hostAddressesMapToOffsets : Obligations.HostAddressesMapToOffsets := by
  refine ⟨fun off => ⟨rfl, (blockOffset?_eq_some_iff _ off).mpr rfl⟩, fun a ha => ?_,
    fun a off => (blockOffset?_eq_some_iff a off).mp, Nat.dvd_mul_left ..⟩
  exact Option.eq_none_iff_forall_ne_some.mpr fun off h => ha off ((blockOffset?_eq_some_iff a off).mp h).symm

end Sys2Proof.Machine
end

section
/-! PROOFS. The encoding: commands and their words and bytes (O1, O2, O3), what a delivered word does (O7), and which
word a write to CMD delivers (O8) (30_encoding.md R90 to R94). -/

namespace Sys2Proof.Machine

/-! ### The command words (30_encoding.md R90 to R92) -/

/-- Settles O1, from the decoder's two directions. -/
theorem wordDecodesIffItIsTheEncoding : Obligations.WordDecodesIffItIsTheEncoding :=
  fun _ i => ⟨eq_encode_of_decode, fun h => h ▸ decode_encode i⟩

/-- A command's word is its opcode with a zero MBZ field above it (30_encoding.md R90). -/
theorem eq_encode_iff (w : Word64) (i : Instr) :
    w = encode i ↔ w.extractLsb' 8 56 = 0 ∧ w.extractLsb' 0 8 = i.opcode := by
  constructor
  · rintro rfl
    cases i <;> decide
  · rintro ⟨hmbz, hop⟩
    calc w = w.extractLsb' 8 56 ++ w.extractLsb' 0 8 := by
          rw [BitVec.extractLsb'_append_extractLsb'_eq_extractLsb' (by decide), BitVec.extractLsb'_eq_self]
      _ = (0 : BitVec 56) ++ i.opcode := by rw [hmbz, hop]
      _ = encode i := by cases i <;> decide

/-- The opcodes are the bytes 0x00 to 0x04 (30_encoding.md R91). -/
theorem toNat_le_four_iff_opcode (b : Byte) : b.toNat ≤ 4 ↔ ∃ i : Instr, b = i.opcode := by
  constructor
  · intro h
    obtain ⟨n, hn⟩ := b
    change n ≤ 4 at h
    interval_cases n
    exacts [⟨.nop, rfl⟩, ⟨.render, rfl⟩, ⟨.activate, rfl⟩, ⟨.deactivate, rfl⟩, ⟨.tick, rfl⟩]
  · rintro ⟨i, rfl⟩
    cases i <;> decide

/-- The two legality checks, by the fields of the word (30_encoding.md R90, R92). -/
theorem legalWord_iff (w : Word64) :
    legalWord w = true ↔ w.extractLsb' 8 56 = 0 ∧ (w.extractLsb' 0 8).toNat ≤ 4 := by
  have hmbz : w.extractLsb' 8 56 = 0 ↔ w >>> 8 = 0 := by
    rw [← BitVec.toNat_inj, ← BitVec.toNat_inj, BitVec.extractLsb'_toNat, BitVec.toNat_ushiftRight,
      Nat.mod_eq_of_lt (by have := w.isLt; rw [Nat.shiftRight_eq_div_pow]; omega)]
    rfl
  rw [legalWord, mbzClear, opcodeAssigned, Bool.and_eq_true, beq_iff_eq, decide_eq_true_iff, hmbz,
    BitVec.setWidth_eq_extractLsb' (by decide)]

/-- The legal words are the commands' encodings. -/
theorem legalWord_iff_exists_encode (w : Word64) : legalWord w = true ↔ ∃ i, w = encode i := by
  rw [legalWord_iff, toNat_le_four_iff_opcode]
  simp only [eq_encode_iff, exists_and_left]

theorem decode_ne_ok_of_illegal {w : Word64} (h : ¬ legalWord w = true) (i : Instr) : decode w ≠ .ok i :=
  fun hd => h ((legalWord_iff_exists_encode w).mpr ⟨i, eq_encode_of_decode hd⟩)

/-- Settles O3: the first five words are encodings, and each reserved word fails a legality check. -/
theorem opcodeMapWordsDecode : Obligations.OpcodeMapWordsDecode :=
  ⟨decode_encode .nop, decode_encode .render, decode_encode .activate, decode_encode .deactivate, decode_encode .tick,
    decode_ne_ok_of_illegal (by decide), decode_ne_ok_of_illegal (by decide), decode_ne_ok_of_illegal (by decide),
    decode_ne_ok_of_illegal (by decide)⟩

/-! ### The bytes of a word (20_memory.md R68) -/

@[simp] theorem bytesOfWord_length (n : Nat) (w : Word64) : (bytesOfWord n w).length = n := by
  induction n generalizing w with
  | zero => rfl
  | succ n ih => rw [bytesOfWord, List.length_cons, ih]

theorem getElem_bytesOfWord {n k : Nat} (w : Word64) (hk : k < (bytesOfWord n w).length) :
    (bytesOfWord n w)[k] = w.extractLsb' (8 * k) 8 := by
  induction n generalizing w k with
  | zero => exact absurd hk (Nat.not_lt_zero k)
  | succ n ih =>
    refine BitVec.eq_of_getLsbD_eq fun i hi => ?_
    cases k with
    | zero => simp [bytesOfWord, hi]
    | succ k =>
      simp only [bytesOfWord, List.getElem_cons_succ, ih]
      simp [hi, show 8 + (8 * k + i) = 8 * (k + 1) + i by omega]

/-- A word is its eight bytes. -/
theorem word_eq_of_bytes {v w : Word64} (h : ∀ k, k < 8 → v.extractLsb' (8 * k) 8 = w.extractLsb' (8 * k) 8) :
    v = w := by
  refine BitVec.eq_of_getLsbD_eq fun i hi => ?_
  have hbit : ∀ x : Word64, x.getLsbD i = (x.extractLsb' (8 * (i / 8)) 8).getLsbD (i % 8) := fun x => by
    rw [BitVec.getLsbD_extractLsb', Nat.div_add_mod]
    simp [Nat.mod_lt i (show 8 > 0 by decide)]
  rw [hbit v, hbit w, h (i / 8) (by omega)]

theorem wordOfBytes_bytesOfWord (w : Word64) : wordOfBytes (bytesOfWord 8 w) = w :=
  word_eq_of_bytes fun k hk => by
    rw [extractByte_wordOfBytes _ (by simpa using hk) hk, getElem_bytesOfWord]

theorem bytesOfWord_wordOfBytes {bs : List Byte} (h : bs.length = 8) : bytesOfWord 8 (wordOfBytes bs) = bs :=
  List.ext_getElem (by simp [h]) fun k _ hk => by
    rw [getElem_bytesOfWord, extractByte_wordOfBytes bs hk (by omega)]

theorem decodeBytes_eq_ok_iff (bs : List Byte) (i : Instr) :
    decodeBytes bs = .ok i ↔ bs.length = 8 ∧ decode (wordOfBytes bs) = .ok i := by
  unfold decodeBytes
  by_cases h : bs.length = 8
  · simp [h]
  · simp [h]

/-- Settles O2: eight bytes and a word determine each other, and O1 decides the word. -/
theorem bytesDecodeIffTheyAreTheEncoding : Obligations.BytesDecodeIffTheyAreTheEncoding := by
  intro bs i _
  rw [decodeBytes_eq_ok_iff, wordDecodesIffItIsTheEncoding, encodeBytes]
  constructor
  · rintro ⟨hlen, hw⟩
    rw [← hw, bytesOfWord_wordOfBytes hlen]
  · rintro rfl
    exact ⟨bytesOfWord_length .., wordOfBytes_bytesOfWord _⟩

/-! ### A delivered word (30_encoding.md R92) -/

theorem runWord_encode (i : Instr) (s : State) : runWord (encode i) s = exec i s := by
  rw [runWord, decode_encode]

theorem opcodeField_eq_extract (w : Word64) : opcodeField w = w.extractLsb' 0 8 :=
  BitVec.setWidth_eq_extractLsb' (by decide)

/-- An illegal word reports ILLEGAL_CMD and does nothing else (30_encoding.md R92, 60_exceptions.md R231). -/
theorem runWord_of_illegal {w : Word64} (h : ¬ legalWord w = true) (s : State) :
    runWord w s =
      .next { s with result := .illegalCmd, lastOp := w.extractLsb' 0 8, err := s.err ||| 0x10#8 } := by
  rcases runWord_cases w s with ⟨i, hd, -⟩ | ⟨-, hw⟩
  · exact absurd hd (decode_ne_ok_of_illegal h i)
  · rw [hw, raiseCmdError_eq, opcodeField_eq_extract]
    rfl

/-! ### The word a write to CMD delivers (30_encoding.md R94) -/

theorem step_cmdWrite_whole (s : State) (v : Word64) :
    step (s.withEvent (.hostWrite 0x060 8 v)) = runWord v { s with reply := .writeDone } := by
  obtain ⟨hdata, -, -⟩ := placedData_eq 0x060 v
  rw [step_cmdWrite (registerAccess_low (r := .cmd) rfl (.inr rfl)) rfl, hdata rfl]

theorem step_cmdWrite_low (s : State) (v : Word64) :
    step (s.withEvent (.hostWrite 0x060 4 v)) =
      runWord ((v.extractLsb' 0 32).setWidth 64) { s with reply := .writeDone } := by
  obtain ⟨-, hdata, -⟩ := placedData_eq 0x060 v
  rw [step_cmdWrite (registerAccess_low (r := .cmd) rfl (.inl rfl)) rfl, hdata rfl]

theorem step_cmdWrite_high (s : State) (v : Word64) :
    step (s.withEvent (.hostWrite 0x064 4 v)) =
      runWord ((v.extractLsb' 0 32).setWidth 64 <<< 32) { s with reply := .writeDone } := by
  obtain ⟨-, -, hdata⟩ := placedData_eq 0x064 v
  rw [step_cmdWrite (registerAccess_high (r := .cmd) rfl) rfl, hdata rfl]

/-- Settles O7: a legal word is some command's encoding, and an illegal word decodes to none. -/
theorem legalWordsRunIllegalWordsReport : Obligations.LegalWordsRunIllegalWordsReport := by
  intro s w
  rw [← legalWord_iff, step_cmdWrite_whole]
  refine ⟨fun hlegal => ?_, fun hill => runWord_of_illegal hill _⟩
  obtain ⟨i, hw⟩ := (legalWord_iff_exists_encode w).mp hlegal
  obtain ⟨-, hop⟩ := (eq_encode_iff w i).mp hw
  exact ⟨i, hop.symm, by rw [hw, runWord_encode]⟩

/-- The only legal writes at 0x060 to 0x067: either width at 0x060, 32 bits at 0x064 (20_memory.md R63). -/
theorem registerAccess_cmd {off : Offset} {n : Nat} (hlo : 0x060 ≤ off.toNat) (hhi : off.toNat < 0x068)
    (h : RegisterAccess off n) : (off = 0x060 ∧ (n = 4 ∨ n = 8)) ∨ (off = 0x064 ∧ n = 4) := by
  obtain ⟨hn, hmod, -⟩ := h
  rcases hn with rfl | rfl
  · have hoff : off.toNat = 0x060 ∨ off.toNat = 0x064 := by omega
    exact hoff.imp (fun h => ⟨BitVec.eq_of_toNat_eq h, .inl rfl⟩) (fun h => ⟨BitVec.eq_of_toNat_eq h, rfl⟩)
  · exact .inl ⟨BitVec.eq_of_toNat_eq (show off.toNat = 0x060 by omega), .inr rfl⟩

/-- A word whose low half is zero has a zero opcode, and a zero MBZ field only if its high half is zero too. -/
theorem upperHalf_fields (x : BitVec 32) :
    (x.setWidth 64 <<< 32 : Word64).extractLsb' 0 8 = 0 ∧
      ((x.setWidth 64 <<< 32 : Word64).extractLsb' 8 56 = 0 → x = 0) := by
  constructor
  · refine BitVec.eq_of_getLsbD_eq fun i hi => ?_
    simp [show i < 32 by omega]
  · intro h
    refine BitVec.eq_of_getLsbD_eq fun i hi => ?_
    have hbit := congrArg (BitVec.getLsbD · (24 + i)) h
    simpa [show 24 + i < 56 by omega, show 8 + (24 + i) = 32 + i by omega, show 32 + i < 64 by omega] using hbit

/-- Settles O8: the bytes a write leaves in CMD's place form the word, and no other write there is legal. -/
theorem busWritesFormTheCommandWord : Obligations.BusWritesFormTheCommandWord := by
  intro s v
  refine ⟨step_cmdWrite_whole s v, step_cmdWrite_low s v, step_cmdWrite_high s v, fun hzero => ?_, fun hne => ?_,
    fun off n hlo hhi h60 h64 => ?_⟩
  · rw [step_cmdWrite_high, hzero]
    exact runWord_encode .nop _
  · obtain ⟨hop, hmbz⟩ := upperHalf_fields (v.extractLsb' 0 32)
    rw [step_cmdWrite_high, runWord_of_illegal fun hlegal => hne (hmbz ((legalWord_iff _).mp hlegal).1), hop]
  · exact (illegalAccessOnlySetsBadAccess s off n v).2 fun ha => (registerAccess_cmd hlo hhi ha).elim h60 h64

end Sys2Proof.Machine
end

section
/-! PROOFS. The render pipeline: what a rendering command does, by its snapshot alone (O31), the sample count and its two
limits (O41, O42), and Conv16 (O53) (40_render_pipeline.md R110 to R121). -/

namespace Sys2Proof.Machine

/-! ### The rendering commands (40_render_pipeline.md R110) -/

/-- The command renders in this state: RENDER in both, ACTIVATE in Off, TICK in On. -/
def Renders (i : Instr) (s : State) : Prop :=
  i = .render ∨ (i = .activate ∧ s.on = false) ∨ (i = .tick ∧ s.on = true)

theorem Renders.renderable_of_completes {i : Instr} {s : State} (h : Renders i s) (hc : Completes i s) :
    Renderable (snapshot s) := by
  rcases h with rfl | ⟨rfl, -⟩ | ⟨rfl, -⟩
  · exact hc
  · exact hc.2
  · exact hc.2

theorem Renders.renderFails_of_commandFails {i : Instr} {s : State} {e : CmdError} (h : Renders i s)
    (hf : CommandFails i s e) : RenderFails (snapshot s) e := by
  rcases h with rfl | ⟨rfl, hoff⟩ | ⟨rfl, hon⟩
  · exact hf
  · rcases hf with ⟨hon, -⟩ | ⟨-, hf⟩
    · exact absurd (hoff.symm.trans hon) (by decide)
    · exact hf
  · rcases hf with ⟨hoff, -⟩ | ⟨-, hf⟩
    · exact absurd (hoff.symm.trans hon) (by decide)
    · exact hf

/-- Everything a rendering command can do. -/
theorem exec_cases_of_renders {i : Instr} {s : State} (h : Renders i s) :
    (Renderable (snapshot s) ∧ exec i s = .next (epilogue i.opcode .ok (completed i s))) ∨
      ∃ e, RenderFails (snapshot s) e ∧ exec i s = .next (raiseCmdError e i.opcode s) := by
  rcases exec_cases i s with ⟨hc, he⟩ | ⟨e, hf, he⟩
  · exact .inl ⟨h.renderable_of_completes hc, he⟩
  · exact .inr ⟨e, h.renderFails_of_commandFails hf, he⟩

theorem CmdError.result_ne_ok (e : CmdError) : e.result ≠ .ok := by cases e <;> decide

theorem Renderable.not_fails {P : Params} (h : Renderable P) (e : CmdError) : ¬ RenderFails P e := by
  intro hf
  have hok := render_of_renderable h
  rw [render_of_fails hf] at hok
  cases hok

theorem exec_of_renderable {i : Instr} {s : State} (h : Renders i s) (hr : Renderable (snapshot s)) :
    exec i s = .next (epilogue i.opcode .ok (completed i s)) := by
  rcases exec_cases_of_renders h with ⟨-, he⟩ | ⟨e, hf, -⟩
  · exact he
  · exact absurd hf (hr.not_fails e)

theorem exec_of_renderFails {i : Instr} {s : State} {e : CmdError} (h : Renders i s)
    (hf : RenderFails (snapshot s) e) : exec i s = .next (raiseCmdError e i.opcode s) := by
  rcases exec_cases_of_renders h with ⟨hr, -⟩ | ⟨e', hf', he⟩
  · exact absurd hf (hr.not_fails e)
  · rw [he, hf.unique hf']

/-! ### The buffer a render leaves (40_render_pipeline.md R119, R120) -/

/-- The bank holds the buffer of the snapshot: its length and its samples. -/
structure HoldsBuffer (b : Bank) (P : Params) (t : State) : Prop where
  length : (t.bankLen b).toNat = P.length
  words : ∀ j, j < P.length → t.bankWord b j = outputSample P j

theorem RenderedInto.holdsBuffer {tb : Bank} {s t : State} (h : RenderedInto tb s t) :
    HoldsBuffer tb (snapshot s) t :=
  ⟨h.length, h.words⟩

/-- Each rendering command fills the bank that PLAY_BANK does not name (20_memory.md R70). -/
theorem completed_holdsBuffer {i : Instr} {s : State} (h : Renders i s) (hr : Renderable (snapshot s)) :
    HoldsBuffer s.playBank.other (snapshot s) (completed i s) := by
  have hc := (commit_renderedInto (tb := s.playBank.other) hr).holdsBuffer
  rcases h with rfl | ⟨rfl, -⟩ | ⟨rfl, -⟩
  · exact hc
  · exact ⟨hc.length, hc.words⟩
  · exact ⟨hc.length, hc.words⟩

theorem HoldsBuffer.epilogue {b : Bank} {P : Params} {t : State} (h : HoldsBuffer b P t) (op : Byte)
    (c : ResultCode) : HoldsBuffer b P (epilogue op c t) where
  length := by rw [(epilogue_sameBanks op c t).bankLen, h.length]
  words := h.words

/-- Two banks that hold the buffer of one snapshot agree, whichever they are and whatever else their states hold. -/
theorem HoldsBuffer.agree {b b' : Bank} {P : Params} {t t' : State} (h : HoldsBuffer b P t)
    (h' : HoldsBuffer b' P t') :
    t.bankLen b = t'.bankLen b' ∧ ∀ j, j < (t.bankLen b).toNat → t.bankWord b j = t'.bankWord b' j := by
  refine ⟨BitVec.eq_of_toNat_eq (h.length.trans h'.length.symm), fun j hj => ?_⟩
  rw [h.length] at hj
  rw [h.words j hj, h'.words j hj]

/-- Settles O31: the snapshot decides between success and the one failure, and on success fixes the target's buffer. -/
theorem renderDependsOnTheSnapshotAlone : Obligations.RenderDependsOnTheSnapshotAlone := by
  refine ⟨fun _ => rfl, fun s s' i i' hsnap => ?_⟩
  intro _ (h : Renders i s) (h' : Renders i' s')
  rcases exec_cases_of_renders h with ⟨hr, he⟩ | ⟨e, hf, he⟩
  · have hr' : Renderable (snapshot s') := hsnap ▸ hr
    have hb := (completed_holdsBuffer h hr).epilogue i.opcode .ok
    have hb' := (completed_holdsBuffer h' hr').epilogue i'.opcode .ok
    rw [← hsnap] at hb'
    exact ⟨_, _, he, exec_of_renderable h' hr', rfl, fun _ => hb.agree hb'⟩
  · exact ⟨_, _, he, exec_of_renderFails h' (hsnap ▸ hf), rfl, fun hok => absurd hok e.result_ne_ok⟩

/-! ### The sample count (40_render_pipeline.md R114, R115) -/

theorem length_nearest (P : Params) :
    2 * ((1000 * P.length : Int) - P.sr * P.dur).natAbs ≤ 1000 ∧
      (2 * ((1000 * P.length : Int) - P.sr * P.dur).natAbs = 1000 → P.length % 2 = 0) := by
  obtain ⟨hlow, hhigh, htie⟩ := rheDiv_spec (P.sr * P.dur) (d := 1000) (by decide)
  rw [Params.length, ← Int.natCast_mul P.sr P.dur]
  exact ⟨by omega, fun h => htie (by omega)⟩

/-- Settles O41: the two sides of the rounding, the first of the render's checks, and the examples. -/
theorem sampleCountIsNearestTiesToEven : Obligations.SampleCountIsNearestTiesToEven :=
  ⟨length_nearest, fun _ _ h0 h => exec_of_renderFails h (.zeroLength h0), by decide⟩

/-- Settles O42: a length above BUF_CAPACITY is not 0, so the first check passes and the second fails. -/
theorem tooLongRenderFailsWithOverCapacity : Obligations.TooLongRenderFailsWithOverCapacity :=
  fun _ _ hlong h => exec_of_renderFails h (.overCapacity (Nat.ne_zero_of_lt hlong) hlong)

/-! ### Conv16 (40_render_pipeline.md R116) -/

theorem f64Units_min16 : f64Units f64Min16 = -32768 * (unitsPerOne : Int) := by decide +kernel

theorem f64Units_max16 : f64Units f64Max16 = 32767 * (unitsPerOne : Int) := by decide +kernel

/-- Saturation moves a finite value into the range between its ends. -/
theorem f64Units_saturate {x lo hi : F64} (hx : f64IsFinite x = true) (hlo : f64IsFinite lo = true)
    (hhi : f64IsFinite hi = true) (hle : f64Units lo ≤ f64Units hi) :
    f64Units (f64Saturate x lo hi) = max (f64Units lo) (min (f64Units hi) (f64Units x)) := by
  simp only [f64Saturate, lt_iff_units hx hlo, lt_iff_units hhi hx]
  split_ifs with hbelow habove <;> omega

/-- Truncation toward zero keeps a range between whole numbers. -/
theorem tdiv_mem_range {u a b c : Int} (hc : 0 < c) (ha : a * c ≤ u) (hb : u ≤ b * c) :
    a ≤ u.tdiv c ∧ u.tdiv c ≤ b := by
  have hlow := Int.tdiv_le_tdiv hc ha
  have hhigh := Int.tdiv_le_tdiv hc hb
  rw [Int.mul_tdiv_cancel _ hc.ne'] at hlow hhigh
  exact ⟨hlow, hhigh⟩

/-- A 16-bit sample holds every integer from -32768 to 32767. -/
theorem toInt_ofInt_sample {k : Int} (hlow : -32768 ≤ k) (hhigh : k ≤ 32767) : (BitVec.ofInt 16 k).toInt = k :=
  BitVec.toInt_ofInt_eq_self (by decide) hlow (by omega)

theorem conv16_of_isNaN {v : F64} (h : f64IsNaN v = true) : conv16 v = (0, true) := by
  rw [conv16, if_pos h]

theorem conv16_of_not_isNaN {v : F64} (h : f64IsNaN v = false) :
    conv16 v = (BitVec.ofInt 16 (f64Trunc (f64Saturate v f64Min16 f64Max16)), false) := by
  rw [conv16, h, if_neg Bool.false_ne_true]

theorem conv16_infinity (n : Bool) : conv16 (f64Infinity n) = (if n then -32768#16 else 32767#16, false) := by
  cases n <;> decide +kernel

/-- The saturated value is in the range of a sample, so its truncation is the sample. -/
theorem conv16_toInt_of_finite {v : F64} (h : f64IsFinite v = true) :
    (conv16 v).1.toInt =
      (max (-32768 * (unitsPerOne : Int)) (min (32767 * (unitsPerOne : Int)) (f64Units v))).tdiv
        (unitsPerOne : Int) := by
  have hone : (0 : Int) < unitsPerOne := Int.natCast_pos.mpr unitsPerOne_pos
  have hends : f64Units f64Min16 ≤ f64Units f64Max16 := by rw [f64Units_min16, f64Units_max16]; omega
  rw [conv16_of_not_isNaN (not_isNaN_of_finite h), f64Trunc, f64Units_saturate h (by decide) (by decide) hends,
    f64Units_min16, f64Units_max16]
  obtain ⟨hlow, hhigh⟩ := tdiv_mem_range hone (le_max_left (-32768 * (unitsPerOne : Int)) _)
    (max_le (by omega) (min_le_left (32767 * (unitsPerOne : Int)) (f64Units v)))
  exact toInt_ofInt_sample hlow hhigh

/-- Settles O53, class by class; only the branch of the NaNs sets the latch. -/
theorem conversionSaturatesThenTruncates : Obligations.ConversionSaturatesThenTruncates := by
  refine fun v => ⟨conv16_of_isNaN, fun h => ?_, fun h => ⟨?_, conv16_toInt_of_finite h⟩⟩
  · obtain ⟨n, rfl⟩ := (isInf_iff_exists v).mp h
    rw [conv16_infinity, f64Negative_infinity]
  · rw [conv16_snd, not_isNaN_of_finite h]

end Sys2Proof.Machine
end

section
/-! PROOFS. Bounds that no rounding crosses, and what they say of the render's factors: every envelope value and every
coefficient of a valid filter is finite (00_scope.md R11, 42_envelope.md R160 to R163, 43_filter.md R180 to R184). -/

namespace Sys2Proof.Machine

/-! ### Roundings between two patterns -/

theorem roundUnits_le {n d m : Nat} (hd : 0 < d) (h : n ≤ magnitudeUnits m * d) : roundUnits n d ≤ m :=
  calc roundUnits n d ≤ roundUnits (magnitudeUnits m * d) d := roundUnits_mono hd hd (Nat.mul_le_mul_right d h)
    _ = min m infMagnitude := roundUnits_exact m hd
    _ ≤ m := Nat.min_le_left _ _

theorem le_roundUnits {n d m : Nat} (hd : 0 < d) (hm : m ≤ infMagnitude) (h : magnitudeUnits m * d ≤ n) :
    m ≤ roundUnits n d :=
  calc m = min m infMagnitude := (Nat.min_eq_left hm).symm
    _ = roundUnits (magnitudeUnits m * d) d := (roundUnits_exact m hd).symm
    _ ≤ roundUnits n d := roundUnits_mono hd hd (Nat.mul_le_mul_right d h)

theorem isFinite_of_magnitude_le {x y : F64} (hy : f64IsFinite y = true) (h : f64Magnitude x ≤ f64Magnitude y) :
    f64IsFinite x = true :=
  (isFinite_iff x).mpr (h.trans_lt ((isFinite_iff y).mp hy))

theorem magnitudeUnits_eq_zero_iff (m : Nat) : magnitudeUnits m = 0 ↔ m = 0 :=
  ⟨fun h => magnitudeUnits_strictMono.injective (h.trans magnitudeUnits_zero.symm),
    fun h => h ▸ magnitudeUnits_zero⟩

theorem magnitudeUnits_one : magnitudeUnits (f64Magnitude f64One) = unitsPerOne := by decide +kernel

theorem f64Magnitude_mul {x y : F64} (hx : f64IsFinite x = true) (hy : f64IsFinite y = true) :
    f64Magnitude (f64Mul x y) =
      roundUnits (magnitudeUnits (f64Magnitude x) * magnitudeUnits (f64Magnitude y)) unitsPerOne := by
  rw [f64Mul_finite hx hy, f64Magnitude_pack _ (roundUnits_lt _ _)]

theorem f64Magnitude_div {x y : F64} (hx : f64IsFinite x = true) (hy : f64IsFinite y = true)
    (h0 : f64Magnitude y ≠ 0) :
    f64Magnitude (f64Div x y) =
      roundUnits (magnitudeUnits (f64Magnitude x) * unitsPerOne) (magnitudeUnits (f64Magnitude y)) := by
  rw [f64Div_finite hx hy h0, f64Magnitude_pack _ (roundUnits_lt _ _)]

theorem f64Magnitude_add {x y : F64} (hx : f64IsFinite x = true) (hy : f64IsFinite y = true) :
    f64Magnitude (f64Add x y) = roundUnits (f64Units x + f64Units y).natAbs 1 := by
  obtain ⟨neg, hr, -⟩ := f64Add_finite hx hy
  rw [hr, f64Magnitude_pack _ (roundUnits_lt _ _)]

theorem f64Magnitude_sub {x y : F64} (hx : f64IsFinite x = true) (hy : f64IsFinite y = true) :
    f64Magnitude (f64Sub x y) = roundUnits (f64Units x - f64Units y).natAbs 1 := by
  rw [f64Sub, f64Magnitude_add hx ((f64IsFinite_neg y).trans hy), f64Units_neg, ← sub_eq_add_neg]

/-- A quotient of a value by one of at least its magnitude lies between -1.0 and 1.0. -/
theorem f64Div_finite_of_magnitude_le {x y : F64} (hy : f64IsFinite y = true) (h0 : f64Magnitude y ≠ 0)
    (h : f64Magnitude x ≤ f64Magnitude y) : f64IsFinite (f64Div x y) = true := by
  have hd : 0 < magnitudeUnits (f64Magnitude y) := Nat.pos_of_ne_zero (mt (magnitudeUnits_eq_zero_iff _).mp h0)
  refine isFinite_of_magnitude_le (y := f64One) (by decide) ?_
  rw [f64Magnitude_div (isFinite_of_magnitude_le hy h) hy h0]
  refine roundUnits_le hd ?_
  rw [magnitudeUnits_one, Nat.mul_comm]
  exact Nat.mul_le_mul_left _ (magnitudeUnits_strictMono.monotone h)

/-! ### Values of magnitude at most a whole number -/

/-- A finite value between `-c` and `c`. -/
def Within (c : Nat) (x : F64) : Prop :=
  f64IsFinite x = true ∧ magnitudeUnits (f64Magnitude x) ≤ c * unitsPerOne

theorem within_of_magnitude_eq {x : F64} {c n d : Nat} (hx : f64Magnitude x = roundUnits n d) (hc : c ≤ 2 ^ 53)
    (hd : 0 < d) (h : n ≤ c * unitsPerOne * d) : Within c x := by
  obtain ⟨m, hm, -, hu⟩ := f64OfNat_form hc
  rw [← hu] at h
  have hle : f64Magnitude x ≤ m := hx.trans_le (roundUnits_le hd h)
  refine ⟨(isFinite_iff x).mpr (hle.trans_lt hm), ?_⟩
  rw [← hu]
  exact magnitudeUnits_strictMono.monotone hle

theorem magnitudeUnits_f64OfNat {k : Nat} (hk : k ≤ 2 ^ 53) :
    magnitudeUnits (f64Magnitude (f64OfNat k)) = k * unitsPerOne := by
  rw [← f64Units_natAbs, (f64OfNat_exact hk).2, Int.natAbs_mul, Int.natAbs_natCast, Int.natAbs_natCast]

theorem within_f64OfNat {k : Nat} (hk : k ≤ 2 ^ 53) : Within k (f64OfNat k) :=
  ⟨(f64OfNat_exact hk).1, (magnitudeUnits_f64OfNat hk).le⟩

theorem Within.add {x y : F64} {c c' : Nat} (hx : Within c x) (hy : Within c' y) (hc : c + c' ≤ 2 ^ 53) :
    Within (c + c') (f64Add x y) := by
  obtain ⟨hxfin, hxle⟩ := hx
  obtain ⟨hyfin, hyle⟩ := hy
  refine within_of_magnitude_eq (f64Magnitude_add hxfin hyfin) hc Nat.one_pos ?_
  rw [← f64Units_natAbs] at hxle hyle
  rw [Nat.mul_one, Nat.add_mul]
  exact (Int.natAbs_add_le _ _).trans (Nat.add_le_add hxle hyle)

theorem Within.neg {x : F64} {c : Nat} (hx : Within c x) : Within c (f64Neg x) := by
  rwa [Within, f64IsFinite_neg, (f64Neg_fields x).2]

theorem Within.sub {x y : F64} {c c' : Nat} (hx : Within c x) (hy : Within c' y) (hc : c + c' ≤ 2 ^ 53) :
    Within (c + c') (f64Sub x y) :=
  hx.add hy.neg hc

theorem Within.mul {x y : F64} {c c' : Nat} (hx : Within c x) (hy : Within c' y) (hc : c * c' ≤ 2 ^ 53) :
    Within (c * c') (f64Mul x y) := by
  obtain ⟨hxfin, hxle⟩ := hx
  obtain ⟨hyfin, hyle⟩ := hy
  refine within_of_magnitude_eq (f64Magnitude_mul hxfin hyfin) hc unitsPerOne_pos ?_
  calc _ ≤ c * unitsPerOne * (c' * unitsPerOne) := Nat.mul_le_mul hxle hyle
    _ = c * c' * unitsPerOne * unitsPerOne := by ring

/-- Division by a whole number does not enlarge a value. -/
theorem Within.div_f64OfNat {x : F64} {c k : Nat} (hx : Within c x) (hc : c ≤ 2 ^ 53) (hk0 : 0 < k)
    (hk : k ≤ 2 ^ 53) : Within c (f64Div x (f64OfNat k)) := by
  obtain ⟨hxfin, hxle⟩ := hx
  have hunits := magnitudeUnits_f64OfNat hk
  have hpos : 0 < k * unitsPerOne := Nat.mul_pos hk0 unitsPerOne_pos
  have h0 : f64Magnitude (f64OfNat k) ≠ 0 := by
    rw [Ne, ← magnitudeUnits_eq_zero_iff, hunits]
    exact hpos.ne'
  refine within_of_magnitude_eq (f64Magnitude_div hxfin (f64OfNat_exact hk).1 h0) hc (hunits ▸ hpos) ?_
  rw [hunits]
  exact Nat.mul_le_mul hxle (Nat.le_mul_of_pos_left _ hk0)

/-- CLAMP01 of a finite value lies in the unit interval. -/
theorem within_clamp01 {x : F64} (hx : f64IsFinite x = true) : Within 1 (f64Clamp01 x) := by
  obtain ⟨hfin, hunits⟩ := f64Clamp01_finite hx
  refine ⟨hfin, ?_⟩
  rw [← f64Units_natAbs, hunits]
  omega

/-! ### The envelope is finite (42_envelope.md R160, R161, R163) -/

theorem segClamp_le (r : F64) : segClamp r ≤ 2 ^ 52 := by
  unfold segClamp
  split
  · exact Nat.min_le_right _ _
  · exact le_rfl

theorem segCount_le (ms : F64) (sr : Nat) : segCount ms sr ≤ 2 ^ 52 := segClamp_le _

/-- No element of a ramp between values of the unit interval overflows: its inner elements take at most
`2 (L - 2) + 1` in magnitude, whatever is rounded on the way. -/
theorem ramp_finite {a b : F64} {L k : Nat} (ha : Within 1 a) (hb : Within 1 b) (hL : L ≤ 2 ^ 52) (hk : k < L) :
    f64IsFinite (ramp a b L k) = true := by
  unfold ramp
  split_ifs with hone hlast
  · exact ha.1
  · exact hb.1
  · have hstep : Within (1 + 1) (f64Div (f64Sub b a) (f64OfNat (L - 1))) :=
      (hb.sub ha (by decide)).div_f64OfNat (by decide) (by omega) (by omega)
    have hinner := (within_f64OfNat (k := k) (by omega)).mul hstep (by omega)
    exact (hinner.add ha (by omega)).1

theorem within_zero : Within 1 f64PosZero := ⟨by decide, Nat.zero_le _⟩

theorem within_one : Within 1 f64One := ⟨by decide, by rw [magnitudeUnits_one, Nat.one_mul]⟩

theorem envelope_finite {i N A D R : Nat} {S : F64} (hi : i < N) (hS : Within 1 S) (hA : A ≤ 2 ^ 52)
    (hD : D ≤ 2 ^ 52) (hR : R ≤ 2 ^ 52) : f64IsFinite (envelope i N A D R S) = true := by
  unfold envelope
  split_ifs with hrelease hattack hdecay
  · exact ramp_finite hS within_zero hR (by omega)
  · exact ramp_finite within_zero within_one hA hattack
  · exact ramp_finite within_one hS hD (by omega)
  · exact hS.1

/-! ### The filter's coefficients are finite (43_filter.md R180 to R184) -/

/-- A value above 0 and not at or above 1.0 is finite. -/
theorem finite_of_between {x : F64} (h0 : f64Lt f64PosZero x = true) (h1 : ¬ f64Le f64One x = true) :
    f64IsFinite x = true ∧ 0 < f64Units x ∧ f64Units x < unitsPerOne := by
  have hnan : f64IsNaN x = false := by
    by_contra h
    exact absurd h0 (by rw [f64Lt_of_isNaN (.inr (eq_true_of_ne_false h))]; exact Bool.false_ne_true)
  have hfin : f64IsFinite x = true := by
    rcases (lt_iff_of_not_isNaN (by decide) hnan).mp h0 with ⟨h, -⟩ | ⟨-, h⟩ | ⟨-, h, -⟩
    · exact absurd h (by decide)
    · exact absurd ((le_iff_of_not_isNaN (by decide) hnan).mpr (.inr (.inl h))) h1
    · exact h
  rw [lt_iff_units (by decide) hfin, f64Units_zero] at h0
  rw [le_iff_units (by decide) hfin, f64Units_one, not_le] at h1
  exact ⟨hfin, h0, h1⟩

/-- A normalized cutoff that passes the check lies in (0, 1] (43_filter.md R181, R182). -/
theorem normalizedCutoff_mem {cutoff : F64} {sr : Nat} (h : f64Lt f64PosZero (normalizedCutoff cutoff sr) = true) :
    0 < f64Units (normalizedCutoff cutoff sr) ∧ Within 1 (normalizedCutoff cutoff sr) := by
  simp only [normalizedCutoff] at h ⊢
  split_ifs at h ⊢ with hone
  · exact ⟨by decide +kernel, by decide, by decide +kernel⟩
  · obtain ⟨hfin, hpos, hlt⟩ := finite_of_between h hone
    refine ⟨hpos, hfin, ?_⟩
    rw [← f64Units_natAbs]
    omega

theorem magnitudeUnits_two : magnitudeUnits (f64Magnitude f64Two) = 2 * unitsPerOne := by decide +kernel

/-- PI64/2 is the exact half of PI64. -/
theorem magnitudeUnits_pi64 : magnitudeUnits (f64Magnitude pi64) = 2 * magnitudeUnits (f64Magnitude halfPi64) := by
  decide +kernel

theorem unitsPerOne_le_halfPi64 : unitsPerOne ≤ magnitudeUnits (f64Magnitude halfPi64) := by decide +kernel

/-- `PI64 * wn` rounds to no more than PI64, and to at least two units. -/
theorem magnitude_pi64_mul {wn : F64} (h0 : f64Magnitude wn ≠ 0) (hwn : Within 1 wn) :
    2 ≤ f64Magnitude (f64Mul pi64 wn) ∧ f64Magnitude (f64Mul pi64 wn) ≤ f64Magnitude pi64 := by
  obtain ⟨hfin, hle⟩ := hwn
  rw [Nat.one_mul] at hle
  rw [f64Magnitude_mul (by decide) hfin]
  refine ⟨le_roundUnits unitsPerOne_pos (by decide) ?_, roundUnits_le unitsPerOne_pos (Nat.mul_le_mul_left _ hle)⟩
  have hpos : 0 < magnitudeUnits (f64Magnitude wn) := Nat.pos_of_ne_zero (mt (magnitudeUnits_eq_zero_iff _).mp h0)
  calc magnitudeUnits 2 * unitsPerOne = 2 * unitsPerOne := by rw [magnitudeUnits_small (by decide)]
    _ ≤ magnitudeUnits (f64Magnitude pi64) := by
      rw [magnitudeUnits_pi64]; exact Nat.mul_le_mul_left 2 unitsPerOne_le_halfPi64
    _ ≤ magnitudeUnits (f64Magnitude pi64) * magnitudeUnits (f64Magnitude wn) := Nat.le_mul_of_pos_right _ hpos

/-- Halving a value of at least two units that is not above PI64 leaves at least one unit and no more than PI64/2. -/
theorem magnitude_div_two {x : F64} (hlow : 2 ≤ f64Magnitude x) (hhigh : f64Magnitude x ≤ f64Magnitude pi64) :
    1 ≤ f64Magnitude (f64Div x f64Two) ∧ f64Magnitude (f64Div x f64Two) ≤ f64Magnitude halfPi64 := by
  have hlow' : 2 ≤ magnitudeUnits (f64Magnitude x) := magnitudeUnits_strictMono.monotone hlow
  have hhigh' := magnitudeUnits_strictMono.monotone hhigh
  have hd : 0 < 2 * unitsPerOne := Nat.mul_pos Nat.two_pos unitsPerOne_pos
  rw [f64Magnitude_div (isFinite_of_magnitude_le (y := pi64) (by decide) hhigh) (by decide) (by decide),
    magnitudeUnits_two]
  refine ⟨le_roundUnits hd (by decide) ?_, roundUnits_le hd ?_⟩
  · rw [magnitudeUnits_small (by decide), Nat.one_mul]
    exact Nat.mul_le_mul_right _ hlow'
  · rw [← Nat.mul_assoc, Nat.mul_comm _ 2, ← magnitudeUnits_pi64]
    exact Nat.mul_le_mul_right _ hhigh'

theorem f64Key_of_not_negative {x : F64} (h : f64Negative x = false) : f64Key x = f64Magnitude x := by
  rw [f64Key, h, if_neg Bool.false_ne_true]

/-- The argument of TAN64 lies in its domain (43_filter.md R183). -/
theorem cornerArgument_mem {wn : F64} (hpos : 0 < f64Units wn) (hwn : Within 1 wn) :
    f64Lt f64PosZero (f64Div (f64Mul pi64 wn) f64Two) = true ∧
      f64Le (f64Div (f64Mul pi64 wn) f64Two) halfPi64 = true := by
  obtain ⟨hlow, hhigh⟩ := magnitude_pi64_mul (mt (units_eq_zero_iff wn).mpr hpos.ne') hwn
  obtain ⟨hone, hhalf⟩ := magnitude_div_two hlow hhigh
  have hmul : f64IsFinite (f64Mul pi64 wn) = true := isFinite_of_magnitude_le (y := pi64) (by decide) hhigh
  have hfin := isFinite_of_magnitude_le (y := halfPi64) (by decide) hhalf
  have hwnsign : f64Negative wn = false := by
    rw [negative_eq_decide hpos.ne', decide_eq_false hpos.not_gt]
  have hmulsign : f64Negative (f64Mul pi64 wn) = false := by
    rw [f64Mul_finite (by decide) hwn.1, f64Negative_pack _ (roundUnits_lt _ _), hwnsign]
    decide
  have hsign : f64Negative (f64Div (f64Mul pi64 wn) f64Two) = false := by
    rw [f64Div_finite hmul (by decide) (by decide), f64Negative_pack _ (roundUnits_lt _ _), hmulsign]
    decide
  rw [lt_iff_key (by decide) (not_isNaN_of_finite hfin), le_iff_key (not_isNaN_of_finite hfin) (by decide),
    f64Key_of_not_negative hsign, f64Key_of_not_negative (by decide), f64Key_of_not_negative (by decide)]
  exact ⟨Int.ofNat_lt.mpr hone, Int.ofNat_le.mpr hhalf⟩

/-- For a cutoff that passes the check K is finite and above 0 (43_filter.md R183). -/
theorem cornerK_pos {wn : F64} (hpos : 0 < f64Units wn) (hwn : Within 1 wn) :
    f64IsFinite (cornerK wn) = true ∧ 0 < f64Units (cornerK wn) := by
  obtain ⟨hlow, hhigh⟩ := cornerArgument_mem hpos hwn
  exact tan64_pos hlow hhigh

/-- 1.0 is below half a quantum of the largest finite value, so adding it never overflows. -/
theorem units_add_one_lt {m : Nat} (h : m < infMagnitude) :
    magnitudeUnits m + unitsPerOne < (2 ^ 54 - 1) * 2 ^ 2044 :=
  calc magnitudeUnits m + unitsPerOne ≤ magnitudeUnits (infMagnitude - 1) + unitsPerOne :=
        Nat.add_le_add_right (magnitudeUnits_strictMono.monotone (by omega)) _
    _ < (2 ^ 54 - 1) * 2 ^ 2044 := by decide +kernel

/-- `1.0 + K` is finite and not below K, for a finite K above 0. -/
theorem f64Add_one_finite {K : F64} (hfin : f64IsFinite K = true) (hpos : 0 < f64Units K) :
    f64IsFinite (f64Add f64One K) = true ∧ f64Magnitude K ≤ f64Magnitude (f64Add f64One K) := by
  have hmag := (isFinite_iff K).mp hfin
  have hsum : (f64Units f64One + f64Units K).natAbs = magnitudeUnits (f64Magnitude K) + unitsPerOne := by
    rw [← f64Units_natAbs, f64Units_one]
    omega
  have hround : f64Magnitude (f64Add f64One K) = roundUnits (magnitudeUnits (f64Magnitude K) + unitsPerOne) 1 := by
    rw [f64Magnitude_add (by decide) hfin, hsum]
  constructor
  · obtain ⟨neg, hr, -⟩ := f64Add_finite (x := f64One) (by decide) hfin
    rw [hr, hsum]
    exact pack_round_finite neg Nat.one_pos (by rw [Nat.one_mul]; exact units_add_one_lt hmag)
  · rw [hround]
    exact le_roundUnits Nat.one_pos hmag.le (by omega)

/-- `K + 1.0` is `1.0 + K`, and the magnitude of `K - 1.0` is no more. -/
theorem f64Magnitude_sub_one_le {K : F64} (hfin : f64IsFinite K = true) (hpos : 0 < f64Units K) :
    f64Magnitude (f64Add K f64One) = f64Magnitude (f64Add f64One K) ∧
      f64Magnitude (f64Sub K f64One) ≤ f64Magnitude (f64Add f64One K) := by
  rw [f64Magnitude_add hfin (by decide), f64Magnitude_add (by decide) hfin, f64Magnitude_sub hfin (by decide),
    Int.add_comm]
  refine ⟨rfl, roundUnits_mono Nat.one_pos Nat.one_pos ?_⟩
  rw [f64Units_one]
  omega

/-- The coefficients of a filtered render that passes its checks are finite. -/
theorem derivedCoeffs_finite {P : Params} (hf : P.filtEn = true) (h : ValidCutoff P) :
    f64IsFinite (derivedCoeffs P).b0 = true ∧ f64IsFinite (derivedCoeffs P).b1 = true ∧
      f64IsFinite (derivedCoeffs P).a1 = true := by
  obtain ⟨-, hcut⟩ := h hf
  obtain ⟨hwnpos, hwn⟩ := normalizedCutoff_mem hcut
  obtain ⟨hfin, hpos⟩ := cornerK_pos hwnpos hwn
  obtain ⟨hsum, hle⟩ := f64Add_one_finite hfin hpos
  obtain ⟨hcomm, hsub⟩ := f64Magnitude_sub_one_le hfin hpos
  have hK : f64Magnitude (cornerK (normalizedCutoff P.cutoff P.sr)) ≠ 0 := mt (units_eq_zero_iff _).mpr hpos.ne'
  have hne := ((Nat.pos_of_ne_zero hK).trans_le hle).ne'
  have hb := f64Div_finite_of_magnitude_le hsum hne hle
  refine ⟨hb, hb, f64Div_finite_of_magnitude_le ?_ ?_ ?_⟩
  · exact isFinite_of_magnitude_le hsum hcomm.le
  · exact hcomm.trans_ne hne
  · exact hsub.trans hcomm.ge

end Sys2Proof.Machine
end

section
/-! PROOFS. The oscillator: the formula of each kind (O54), the two levels of the square (O55), and silence through the
whole pipeline (O56) (41_oscillator.md R140 to R148). -/

namespace Sys2Proof.Machine

/-! ### Dispatch (41_oscillator.md R142, R148) -/

theorem oscillator_silent {P : Params} (hf : f64Lt f64PosZero P.f = false) (i : Nat) : oscillator P i = f64PosZero := by
  rw [oscillator, hf, if_neg Bool.false_ne_true]

theorem oscillator_sine {P : Params} (hf : f64Lt f64PosZero P.f = true) (hk : P.kind = .sine) (i : Nat) :
    oscillator P i = oscSine P.effAmp P.f (oscTime P.sr i) := by
  rw [oscillator, if_pos hf, hk]

theorem oscillator_triangle {P : Params} (hf : f64Lt f64PosZero P.f = true) (hk : P.kind = .triangle) (i : Nat) :
    oscillator P i =
      if P.triFix then oscTriangleFixed P.effAmp P.f (oscTime P.sr i)
      else oscTriangle P.effAmp P.f (oscTime P.sr i) := by
  rw [oscillator, if_pos hf, hk]

theorem oscillator_sawtooth {P : Params} (hf : f64Lt f64PosZero P.f = true) (hk : P.kind = .sawtooth) (i : Nat) :
    oscillator P i = oscSawtooth P.effAmp P.f (oscTime P.sr i) := by
  rw [oscillator, if_pos hf, hk]

theorem oscillator_square {P : Params} (hf : f64Lt f64PosZero P.f = true) (hk : P.kind = .square) (i : Nat) :
    oscillator P i = oscSquare P.effAmp P.f P.effPw (oscTime P.sr i) := by
  rw [oscillator, if_pos hf, hk]

/-- Settles O54: the branch each kind takes is its rule's formula, constants written out. -/
theorem eachKindAppliesItsFormula : Obligations.EachKindAppliesItsFormula := by
  refine fun P i hf => ⟨fun hk => oscillator_sine hf hk i, fun hk htri => ?_, fun hk htri => ?_,
    fun hk => oscillator_sawtooth hf hk i, fun hk => oscillator_square hf hk i⟩
  · rw [oscillator_triangle hf hk, htri, if_neg Bool.false_ne_true]
    rfl
  · rw [oscillator_triangle hf hk, htri, if_pos rfl]
    rfl

/-! ### MOD2 (00_scope.md R12) -/

theorem f64Mod2_of_not_finite {k : F64} (hk : f64IsFinite k = false) : f64Mod2 k = f64NaN := by
  rw [f64Mod2, hk, if_neg Bool.false_ne_true]

theorem f64Mod2_integer {k : F64} {n : Int} (hk : f64IsFinite k = true) (hn : f64Units k = n * (unitsPerOne : Int)) :
    f64Mod2 k = if n % 2 = 1 then f64One else f64PosZero := by
  rw [f64Mod2, if_pos hk, hn, Int.mul_ediv_cancel n (Int.natCast_ne_zero.mpr unitsPerOne_pos.ne')]

/-- A significand has 53 bits, so an integral value of magnitude 2^53 or more has a quantum of at least 2. -/
theorem even_of_two_pow_53_le {m a : Nat} (hm : magnitudeUnits m = a * unitsPerOne) (ha : 2 ^ 53 ≤ a) : 2 ∣ a := by
  obtain ⟨sh, q, -, hq, -, hu⟩ := magnitude_form m
  rw [hu] at hm
  have hsh : 1075 ≤ sh := by
    by_contra hlt
    have hle : a * unitsPerOne ≤ q * unitsPerOne := by
      rw [← hm, unitsPerOne]
      exact Nat.mul_le_mul_left q (pow_le_pow_right₀ one_le_two (by omega))
    exact absurd (Nat.le_of_mul_le_mul_right hle unitsPerOne_pos) (by omega)
  have hsplit : 2 ^ sh = 2 * 2 ^ (sh - 1075) * unitsPerOne := by
    rw [unitsPerOne, ← pow_succ', ← pow_add]
    congr 1
    omega
  rw [hsplit, ← Nat.mul_assoc] at hm
  rw [← Nat.eq_of_mul_eq_mul_right unitsPerOne_pos hm]
  exact ⟨q * 2 ^ (sh - 1075), by ring⟩

/-! ### 1.0 and the zeros as operands

`f64Magnitude x = 0` says that `x` is a zero of either sign. -/

theorem f64Mul_one {x : F64} (hx : f64IsFinite x = true) : f64Mul x f64One = x := by
  have hmag : f64Magnitude (f64Mul x f64One) = f64Magnitude x := by
    rw [f64Magnitude_mul hx (by decide), magnitudeUnits_one, roundUnits_exact _ unitsPerOne_pos,
      Nat.min_eq_left ((isFinite_iff x).mp hx).le]
  have hsign : f64Negative (f64Mul x f64One) = f64Negative x := by
    rw [f64Mul_finite hx (by decide), f64Negative_pack _ (roundUnits_lt _ _)]
    exact Bool.bne_false _
  exact (f64_eq_iff _ _).mpr ⟨hsign, hmag⟩

theorem isFinite_of_zero {x : F64} (hx : f64Magnitude x = 0) : f64IsFinite x = true :=
  (isFinite_iff x).mpr (by rw [hx]; decide)

theorem f64Mul_zero_left {x y : F64} (hx : f64Magnitude x = 0) (hy : f64IsFinite y = true) :
    f64Magnitude (f64Mul x y) = 0 := by
  rw [f64Magnitude_mul (isFinite_of_zero hx) hy, hx, magnitudeUnits_zero, Nat.zero_mul, roundUnits_zero unitsPerOne_pos]

theorem f64Mul_zero_right {x y : F64} (hx : f64IsFinite x = true) (hy : f64Magnitude y = 0) :
    f64Magnitude (f64Mul x y) = 0 := by
  rw [f64Mul_comm]
  exact f64Mul_zero_left hy hx

theorem f64Add_zeros {x y : F64} (hx : f64Magnitude x = 0) (hy : f64Magnitude y = 0) :
    f64Magnitude (f64Add x y) = 0 := by
  rw [f64Magnitude_add (isFinite_of_zero hx) (isFinite_of_zero hy), (units_eq_zero_iff x).mpr hx,
    (units_eq_zero_iff y).mpr hy]
  exact roundUnits_zero Nat.one_pos

theorem f64Sub_zeros {x y : F64} (hx : f64Magnitude x = 0) (hy : f64Magnitude y = 0) :
    f64Magnitude (f64Sub x y) = 0 :=
  f64Add_zeros hx ((f64Neg_fields y).2.trans hy)

/-! ### The square (41_oscillator.md R147) -/

/-- The whole part of a finite value is what FLOOR gives. -/
theorem f64Floor_units {x : F64} {n : Int} (hx : f64IsFinite x = true) (hlow : n * (unitsPerOne : Int) ≤ f64Units x)
    (hhigh : f64Units x < (n + 1) * (unitsPerOne : Int)) : f64Units (f64Floor x) = n * (unitsPerOne : Int) := by
  have hone : (0 : Int) < unitsPerOne := Int.natCast_pos.mpr unitsPerOne_pos
  have hn : f64Units x / (unitsPerOne : Int) = n :=
    le_antisymm (Int.lt_add_one_iff.mp ((Int.ediv_lt_iff_lt_mul hone).mpr hhigh))
      ((Int.le_ediv_iff_mul_le hone).mpr hlow)
  rw [(f64Floor_finite hx).2, hn]

/-- `amp * MOD2(FLOOR(phase))`, for a finite amplitude: the amplitude or a zero by the parity of the whole part. -/
theorem squareLevel_of_finite {amp phase : F64} {n : Int} (ha : f64IsFinite amp = true)
    (hp : f64IsFinite phase = true) (hlow : n * (unitsPerOne : Int) ≤ f64Units phase)
    (hhigh : f64Units phase < (n + 1) * (unitsPerOne : Int)) :
    (n % 2 = 1 → f64Mul amp (f64Mod2 (f64Floor phase)) = amp) ∧
      (n % 2 = 0 → f64Units (f64Mul amp (f64Mod2 (f64Floor phase))) = 0) := by
  rw [f64Mod2_integer (f64Floor_finite hp).1 (f64Floor_units hp hlow hhigh)]
  refine ⟨fun hodd => ?_, fun heven => ?_⟩
  · rw [if_pos hodd, f64Mul_one ha]
  · rw [if_neg (by omega), units_eq_zero_iff]
    exact f64Mul_zero_right ha (by decide)

theorem squareLevel_of_not_finite {phase : F64} (amp : F64) (hp : f64IsFinite phase = false) :
    f64IsNaN (f64Mul amp (f64Mod2 (f64Floor phase))) = true := by
  rw [f64Floor_of_not_finite hp, f64Mod2_of_not_finite hp, f64Mul_of_isNaN (.inr f64IsNaN_f64NaN)]
  exact f64IsNaN_f64NaN

/-- Settles O55: MOD2 by the parity of the integer, and the square as the amplitude times MOD2 of the whole phase. -/
theorem squareHasTwoLevels : Obligations.SquareHasTwoLevels := by
  refine ⟨fun k n hk hn => ⟨fun hodd => ?_, fun heven => ?_, fun hbig => ?_⟩, fun k hk => ?_,
    fun P i hkind hf ha => ?_⟩
  · rw [f64Mod2_integer hk hn, if_pos hodd]
    rfl
  · rw [f64Mod2_integer hk hn, if_neg (by omega)]
    rfl
  · have habs : magnitudeUnits (f64Magnitude k) = n.natAbs * unitsPerOne := by
      rw [← f64Units_natAbs, hn, Int.natAbs_mul, Int.natAbs_natCast]
    have := even_of_two_pow_53_le habs hbig
    omega
  · rw [f64Mod2_of_not_finite hk]
    exact f64IsNaN_f64NaN
  · rw [oscillator_square hf hkind]
    exact ⟨fun hp _ => squareLevel_of_finite (f64Clamp01_finite ha).1 hp, squareLevel_of_not_finite _⟩

/-! ### Silence through the pipeline (40_render_pipeline.md R116, R117, 43_filter.md R185) -/

theorem conv16_zero {x : F64} (hx : f64Magnitude x = 0) : conv16 x = (0, false) := by
  rw [← f64Pack_eta x, hx]
  cases f64Negative x <;> decide +kernel

/-- The envelope of a valid render is finite at every index (42_envelope.md R165). -/
theorem envelope_finite_of_valid {P : Params} (h : ValidParams P) {i : Nat} (hi : i < P.length) :
    f64IsFinite (envelope i P.length (segCount P.att P.sr) (segCount P.dec P.sr) (segCount P.rel P.sr)
      (f64Clamp01 P.sus)) = true :=
  envelope_finite hi (within_clamp01 h.sus) (segCount_le _ _) (segCount_le _ _) (segCount_le _ _)

/-- A silent oscillator gives zeros before the conversion. -/
theorem shapedValue_silent {P : Params} (hf : f64Lt f64PosZero P.f = false) (h : ValidParams P) {i : Nat}
    (hi : i < P.length) : f64Magnitude (shapedValue P i) = 0 := by
  rw [shapedValue, oscillator_silent hf]
  have hraw := f64Mul_zero_left (x := f64PosZero) (by decide) (envelope_finite_of_valid h hi)
  exact f64Mul_zero_left hraw (by decide)

theorem filterInput_silent {P : Params} (hf : f64Lt f64PosZero P.f = false) (h : ValidParams P) {i : Nat}
    (hi : i < P.length) : f64Magnitude (filterInput P i) = 0 := by
  rw [filterInput, conv16_zero (shapedValue_silent hf h hi), ← units_eq_zero_iff]
  exact (f64OfInt_exact (k := 0) (by decide)).2.trans (zero_mul _)

/-- A filter of finite coefficients answers zeros with a zero. -/
theorem filterStep_zeros {c : FilterCoeffs} {x xp yp : F64} (hb0 : f64IsFinite c.b0 = true)
    (hb1 : f64IsFinite c.b1 = true) (ha1 : f64IsFinite c.a1 = true) (hx : f64Magnitude x = 0)
    (hxp : f64Magnitude xp = 0) (hyp : f64Magnitude yp = 0) : f64Magnitude (filterStep c x xp yp) = 0 :=
  f64Sub_zeros (f64Add_zeros (f64Mul_zero_right hb0 hx) (f64Mul_zero_right hb1 hxp)) (f64Mul_zero_right ha1 hyp)

/-- The filter's memory begins at zero, and zeros keep it there. -/
theorem filterValue_silent {P : Params} (hf : f64Lt f64PosZero P.f = false) (h : ValidParams P)
    (hfilt : P.filtEn = true) (hcut : ValidCutoff P) {i : Nat} (hi : i < P.length) :
    f64Magnitude (filterValue P i) = 0 := by
  obtain ⟨hb0, hb1, ha1⟩ := derivedCoeffs_finite hfilt hcut
  induction i with
  | zero => exact filterStep_zeros hb0 hb1 ha1 (filterInput_silent hf h hi) (by decide) (by decide)
  | succ n ih =>
    have hn : n < P.length := Nat.lt_of_succ_lt hi
    exact filterStep_zeros hb0 hb1 ha1 (filterInput_silent hf h hi) (filterInput_silent hf h hn) (ih hn)

theorem outputSample_silent {P : Params} (hf : f64Lt f64PosZero P.f = false) (h : Renderable P) {i : Nat}
    (hi : i < P.length) : outputSample P i = 0 := by
  have hzero : f64Magnitude (outputValue P i) = 0 := by
    unfold outputValue
    split_ifs with hfilt
    · exact filterValue_silent hf h.valid hfilt h.cutoff hi
    · exact shapedValue_silent hf h.valid hi
  rw [outputSample, conv16_zero hzero]

/-- Settles O56: a render that passes its checks leaves the buffer of its snapshot, whose samples are all 0. -/
theorem silenceRendersZeroWords : Obligations.SilenceRendersZeroWords := by
  refine fun s hf => ⟨oscillator_silent hf, fun i hi => ⟨fun hr => ?_, fun e he => exec_of_renderFails hi he⟩⟩
  have hbuffer := (completed_holdsBuffer hi hr).epilogue i.opcode .ok
  exact ⟨_, exec_of_renderable hi hr, rfl, hbuffer.length,
    fun j hj => (hbuffer.words j hj).trans (outputSample_silent hf hr hj)⟩

end Sys2Proof.Machine
end

section
/-! PROOFS. The envelope: ramps, segments, ends and overlaps (O57, O58), and the segment counts (O59) (42_envelope.md
R160 to R164). -/

namespace Sys2Proof.Machine

/-! ### The ramp (42_envelope.md R161) -/

theorem ramp_single (a b : F64) (k : Nat) : ramp a b 1 k = a := if_pos rfl

theorem ramp_last (a b : F64) {L k : Nat} (hL : L ≠ 1) (hk : k = L - 1) : ramp a b L k = b := by
  rw [ramp, if_neg hL, if_pos hk]

theorem ramp_inner (a b : F64) {L k : Nat} (hk : k < L - 1) :
    ramp a b L k = f64Add (f64Mul (f64OfNat k) (f64Div (f64Sub b a) (f64OfNat (L - 1)))) a := by
  rw [ramp, if_neg (by omega), if_neg (by omega)]

/-- A zero times the slope, which is finite, plus the zero it starts from: R164 names only the value, not its sign. -/
theorem ramp_zero_one_first {A : Nat} (h1 : 1 ≤ A) (hA : A ≤ 2 ^ 52) :
    f64Magnitude (ramp f64PosZero f64One A 0) = 0 := by
  rcases Nat.eq_or_lt_of_le h1 with rfl | hlong
  · rw [ramp_single]
    decide
  · have hindex : f64Magnitude (f64OfNat 0) = 0 := by
      rw [← units_eq_zero_iff, (f64OfNat_exact (by decide)).2, Nat.cast_zero, zero_mul]
    have hslope : Within (1 + 1) (f64Div (f64Sub f64One f64PosZero) (f64OfNat (A - 1))) :=
      (within_one.sub within_zero (by decide)).div_f64OfNat (by decide) (by omega) (by omega)
    rw [ramp_inner _ _ (by omega)]
    exact f64Add_zeros (f64Mul_zero_left hindex hslope.1) (by decide)

/-! ### The segments (42_envelope.md R162, R163) -/

section
variable {i N A D R : Nat} {S : F64}

theorem envelope_release (h : N ≤ i + R) : envelope i N A D R S = ramp S f64PosZero R (i + R - N) := by
  rw [envelope, if_pos h]

theorem envelope_attack (h : i + R < N) (hA : i < A) : envelope i N A D R S = ramp f64PosZero f64One A i := by
  rw [envelope, if_neg h.not_ge, if_pos hA]

theorem envelope_decay (h : i + R < N) (hA : A ≤ i) (hD : i < A + D) :
    envelope i N A D R S = ramp f64One S D (i - A) := by
  rw [envelope, if_neg h.not_ge, if_neg hA.not_gt, if_pos hD]

theorem envelope_sustain (h : i + R < N) (hD : A + D ≤ i) : envelope i N A D R S = S := by
  rw [envelope, if_neg h.not_ge, if_neg (by omega), if_neg hD.not_gt]

end

/-- Settles O57: where A + D + R <= N, the priority of R163 never cuts a segment off. -/
theorem envelopeHasTheFourSegments : Obligations.EnvelopeHasTheFourSegments := by
  refine ⟨fun a b L k _ _ => ⟨?_, ramp_last a b, ramp_inner a b⟩, fun i N A D R S hsum hi => ⟨fun hA => ?_,
    fun hA hD => ?_, fun hD hR => ?_, fun hR => ?_⟩⟩
  · rintro rfl
    exact ramp_single a b k
  · exact envelope_attack (by omega) hA
  · exact envelope_decay (by omega) hA hD
  · exact envelope_sustain (by omega) hD
  · have hplace : i + R - N = i - (N - R) := by omega
    rw [← hplace]
    exact envelope_release (by omega)

/-- Settles O58: the last index is the last of the release, the first the first of the attack, and the branches of
R163 in their order. -/
theorem envelopeEndsAndOverlaps : Obligations.EnvelopeEndsAndOverlaps := by
  refine fun N A D R S hN => ⟨fun hR => ?_, ?_, fun h1 hA hR => ?_, fun i hi => ?_, fun _ _ => envelope_release,
    fun _ _ => envelope_attack, fun _ _ => envelope_decay, fun _ _ => envelope_sustain⟩
  · rw [envelope_release (by omega)]
    exact ramp_last _ _ (by omega) (by omega)
  · rintro rfl
    rw [envelope_release (by omega), ramp_single]
  · have hfirst := ramp_zero_one_first h1 hA
    rw [envelope_attack (by omega) (by omega)]
    exact ⟨(units_eq_zero_iff _).mpr hfirst, isFinite_of_zero hfirst⟩
  · exact envelope_sustain (by omega) (by omega)

/-! ### Signs of products and quotients -/

theorem f64Mul_units_nonneg {x y : F64} (hx : f64IsFinite x = true) (hy : f64IsFinite y = true)
    (hx0 : 0 ≤ f64Units x) (hy0 : 0 ≤ f64Units y) : 0 ≤ f64Units (f64Mul x y) := by
  have hside := pack_round_sameSide (d := unitsPerOne) unitsPerOne_pos (negative_bne_eq_decide (x := x) (y := y))
  rw [← f64Mul_exact_natAbs, ← f64Mul_finite hx hy] at hside
  exact nonneg_of_mul_nonneg_left (hside.1 (mul_nonneg hx0 hy0)) (Int.natCast_pos.mpr unitsPerOne_pos)

theorem f64Div_units_nonneg {x y : F64} (hx : f64IsFinite x = true) (hy : f64IsFinite y = true)
    (hx0 : 0 ≤ f64Units x) (hy0 : 0 < f64Units y) : 0 ≤ f64Units (f64Div x y) := by
  have hd : 0 < (f64Units y).natAbs := Int.natAbs_pos.mpr hy0.ne'
  have hside := pack_round_sameSide hd (quotient_sign (x := x) (y := y))
  rw [← f64Div_finite_eq hx hy hy0.ne'] at hside
  have hq : 0 ≤ quotientNumerator x y :=
    mul_nonneg (mul_nonneg hx0 (Int.natCast_nonneg _)) (by rw [Int.sign_eq_one_of_pos hy0]; decide)
  exact nonneg_of_mul_nonneg_left (hside.1 hq) (Int.natCast_pos.mpr hd)

/-! ### Bounds of the nearest integer -/

theorem rheDiv_zero {d : Nat} (hd : 0 < d) : rheDiv 0 d = 0 := by
  simpa using rheDiv_exact 0 hd

theorem rheDiv_le {n d k : Nat} (hd : 0 < d) (h : n ≤ k * d) : rheDiv n d ≤ k := by
  rw [← rheDiv_exact k hd, Nat.mul_comm d k]
  exact rheDiv_mono hd hd (Nat.mul_le_mul_right d h)

theorem le_rheDiv {n d k : Nat} (hd : 0 < d) (h : k * d ≤ n) : k ≤ rheDiv n d := by
  rw [← rheDiv_exact k hd, Nat.mul_comm d k]
  exact rheDiv_mono hd hd (Nat.mul_le_mul_right d h)

/-- The integer nearest to `n / d`, even at a tie, with the two sides of `rheDiv_spec` as one distance. -/
theorem rheDiv_nearest (n : Nat) {d : Nat} (hd : 0 < d) :
    2 * ((rheDiv n d * d : Int) - n).natAbs ≤ d ∧
      (2 * ((rheDiv n d * d : Int) - n).natAbs = d → rheDiv n d % 2 = 0) := by
  obtain ⟨hlow, hhigh, htie⟩ := rheDiv_spec n hd
  have hprod : (rheDiv n d * d : Int) = (d * rheDiv n d : Nat) := by rw [Nat.cast_mul, mul_comm]
  rw [hprod]
  exact ⟨by omega, fun h => htie (by omega)⟩

/-! ### The segment count (42_envelope.md R160) -/

theorem magnitudeUnits_of_nonneg {x : F64} (h0 : 0 ≤ f64Units x) :
    (magnitudeUnits (f64Magnitude x) : Int) = f64Units x := by
  rw [← f64Units_natAbs, Int.natAbs_of_nonneg h0]

theorem f64Units_thousand : f64Units f64Thousand = 1000 * (unitsPerOne : Int) := by decide +kernel

/-- A time in seconds is no larger than in milliseconds. -/
theorem f64Div_thousand_finite {ms : F64} (h : f64IsFinite ms = true) : f64IsFinite (f64Div ms f64Thousand) = true := by
  have hunits : magnitudeUnits (f64Magnitude f64Thousand) = 1000 * unitsPerOne := by
    rw [← f64Units_natAbs, f64Units_thousand]
    omega
  refine isFinite_of_magnitude_le h ?_
  rw [f64Magnitude_div h (by decide) (by decide), hunits]
  exact roundUnits_le (Nat.mul_pos (by decide) unitsPerOne_pos)
    (Nat.mul_le_mul_left _ (Nat.le_mul_of_pos_left _ (by decide)))

/-- The product that R160 rounds to a count. -/
def segProduct (ms : F64) (sr : Nat) : F64 := f64Mul (f64Div ms f64Thousand) (f64OfNat sr)

theorem segCount_of_not_neg {ms : F64} (h : f64Lt ms f64PosZero = false) (sr : Nat) :
    segCount ms sr = segClamp (f64Rhe (segProduct ms sr)) := by
  simp only [segCount, h, Bool.false_eq_true, if_false, segProduct]

theorem segCount_of_neg {ms : F64} (h : f64Lt ms f64PosZero = true) (sr : Nat) :
    segCount ms sr = segClamp (f64Rhe (segProduct f64PosZero sr)) := by
  simp only [segCount, h, if_true, segProduct]

/-- The time -0.0 is not below 0, and its product is a zero. -/
theorem segProduct_nonneg {ms : F64} {sr : Nat} (hms : f64IsFinite ms = true) (h0 : f64Lt ms f64PosZero = false)
    (hsr : sr ≤ 2 ^ 53) : 0 ≤ f64Units (segProduct ms sr) := by
  have hone : (0 : Int) < unitsPerOne := Int.natCast_pos.mpr unitsPerOne_pos
  have hpos : 0 ≤ f64Units ms := not_lt.mp (mt (lt_zero_iff_units hms).mpr (by rw [h0]; exact Bool.false_ne_true))
  obtain ⟨hfin, hunits⟩ := f64OfNat_exact hsr
  refine f64Mul_units_nonneg (f64Div_thousand_finite hms) hfin ?_ ?_
  · exact f64Div_units_nonneg hms (by decide) hpos (by rw [f64Units_thousand]; omega)
  · rw [hunits]
    exact mul_nonneg (Int.natCast_nonneg sr) hone.le

theorem segProduct_zero {sr : Nat} (hsr : sr ≤ 2 ^ 53) : f64Magnitude (segProduct f64PosZero sr) = 0 :=
  f64Mul_zero_left (by decide +kernel) (f64OfNat_exact hsr).1

theorem f64Rhe_of_finite {x : F64} (hx : f64IsFinite x = true) :
    f64Rhe x = f64Pack (f64Negative x)
      (roundUnits (rheDiv (magnitudeUnits (f64Magnitude x)) unitsPerOne * unitsPerOne) 1) := by
  rw [f64Rhe, if_pos hx]

theorem f64Rhe_of_not_finite {x : F64} (hx : f64IsFinite x = false) : f64Rhe x = x := by
  rw [f64Rhe, hx, if_neg Bool.false_ne_true]

/-- RHE of a value that is not negative is exact where the nearest integer has at most 53 bits. -/
theorem f64Rhe_exact {x : F64} (hx : f64IsFinite x = true) (h0 : 0 ≤ f64Units x)
    (hk : rheDiv (magnitudeUnits (f64Magnitude x)) unitsPerOne ≤ 2 ^ 53) :
    f64IsFinite (f64Rhe x) = true ∧
      f64Units (f64Rhe x) = rheDiv (magnitudeUnits (f64Magnitude x)) unitsPerOne * (unitsPerOne : Int) := by
  obtain ⟨m, hm, hround, hu⟩ := roundUnits_integer hk
  rw [f64Rhe_of_finite hx, hround, ← Nat.cast_mul]
  refine f64Pack_exact (fun hne => ?_) hm (by rw [hu, Int.natAbs_natCast])
  have hxne : f64Units x ≠ 0 := by
    intro hzero
    rw [(units_eq_zero_iff x).mp hzero, magnitudeUnits_zero, rheDiv_zero unitsPerOne_pos, Nat.zero_mul] at hne
    exact hne rfl
  rw [negative_eq_decide hxne, decide_eq_false h0.not_gt, decide_eq_false (Int.natCast_nonneg _).not_gt]

theorem segClamp_of_units {r : F64} {k : Nat} (hr : f64IsFinite r = true) (hk : f64Units r = k * (unitsPerOne : Int)) :
    segClamp r = min k (2 ^ 52) := by
  rw [segClamp, if_pos hr, f64Trunc, hk, Int.mul_tdiv_cancel _ (Int.natCast_ne_zero.mpr unitsPerOne_pos.ne'),
    Int.toNat_natCast, segMax]

/-- Every infinity and every value from SEG_MAX on gives SEG_MAX. -/
theorem segClamp_of_ge {r : F64} (hr : f64IsFinite r = true → 2 ^ 52 * (unitsPerOne : Int) ≤ f64Units r) :
    segClamp r = 2 ^ 52 := by
  unfold segClamp
  split_ifs with hfin
  · have hone : (0 : Int) < unitsPerOne := Int.natCast_pos.mpr unitsPerOne_pos
    have htrunc := Int.tdiv_le_tdiv hone (hr hfin)
    rw [Int.mul_tdiv_cancel _ hone.ne'] at htrunc
    refine Nat.min_eq_right ?_
    rw [f64Trunc, segMax]
    omega
  · rfl

/-- Up to SEG_MAX, the count is RHE of the product, exactly. -/
theorem segClamp_rhe_of_le {x : F64} (hx : f64IsFinite x = true) (h0 : 0 ≤ f64Units x)
    (hle : f64Units x ≤ 2 ^ 52 * (unitsPerOne : Int)) :
    segClamp (f64Rhe x) = rheDiv (magnitudeUnits (f64Magnitude x)) unitsPerOne := by
  rw [← magnitudeUnits_of_nonneg h0] at hle
  have hbound := rheDiv_le (k := 2 ^ 52) unitsPerOne_pos (by exact_mod_cast hle)
  obtain ⟨hfin, hunits⟩ := f64Rhe_exact hx h0 (hbound.trans (by decide))
  rw [segClamp_of_units hfin hunits, Nat.min_eq_left hbound]

/-- From SEG_MAX on, neither RHE nor its rounding falls below SEG_MAX. -/
theorem segClamp_rhe_of_ge {x : F64} (hx : f64IsFinite x = true) (hge : 2 ^ 52 * (unitsPerOne : Int) ≤ f64Units x) :
    segClamp (f64Rhe x) = 2 ^ 52 := by
  have hone : (0 : Int) < unitsPerOne := Int.natCast_pos.mpr unitsPerOne_pos
  have hpos : 0 < f64Units x := by omega
  have hneg : f64Negative x = false := by rw [negative_eq_decide hpos.ne', decide_eq_false hpos.not_gt]
  rw [← magnitudeUnits_of_nonneg hpos.le] at hge
  have hbound := le_rheDiv (k := 2 ^ 52) unitsPerOne_pos (by exact_mod_cast hge)
  obtain ⟨m, hm, -, hu⟩ := roundUnits_integer (k := 2 ^ 52) (by decide)
  refine segClamp_of_ge fun _ => ?_
  rw [f64Rhe_of_finite hx, hneg, f64Units_pack _ (roundUnits_lt _ _), if_neg Bool.false_ne_true]
  have hround := le_roundUnits (d := 1) Nat.one_pos hm.le
    ((Nat.mul_one _).trans_le (hu.trans_le (Nat.mul_le_mul_right unitsPerOne hbound)))
  have hmono := magnitudeUnits_strictMono.monotone hround
  rw [hu] at hmono
  exact_mod_cast hmono

section
variable {ms : F64} {sr : Nat}

/-- A negative time counts as the time +0.0, whose product is a zero. -/
theorem segCount_eq_zero (hsr : sr ≤ 2 ^ 53) (hneg : f64Lt ms f64PosZero = true) : segCount ms sr = 0 := by
  have hzero := segProduct_zero hsr
  have hunits := (units_eq_zero_iff _).mpr hzero
  rw [segCount_of_neg hneg, segClamp_rhe_of_le (isFinite_of_zero hzero) hunits.ge (by rw [hunits]; omega), hzero,
    magnitudeUnits_zero, rheDiv_zero unitsPerOne_pos]

theorem segCount_nearest (hms : f64IsFinite ms = true) (hsr : sr ≤ 2 ^ 53) (h0 : f64Lt ms f64PosZero = false)
    (hfin : f64IsFinite (segProduct ms sr) = true) (hle : f64Units (segProduct ms sr) ≤ 2 ^ 52 * (unitsPerOne : Int)) :
    2 * ((segCount ms sr * unitsPerOne : Int) - f64Units (segProduct ms sr)).natAbs ≤ unitsPerOne ∧
      (2 * ((segCount ms sr * unitsPerOne : Int) - f64Units (segProduct ms sr)).natAbs = unitsPerOne →
        segCount ms sr % 2 = 0) := by
  have hpos := segProduct_nonneg hms h0 hsr
  rw [segCount_of_not_neg h0, segClamp_rhe_of_le hfin hpos hle, ← magnitudeUnits_of_nonneg hpos]
  exact rheDiv_nearest _ unitsPerOne_pos

theorem segCount_of_ge (h0 : f64Lt ms f64PosZero = false) (hfin : f64IsFinite (segProduct ms sr) = true)
    (hge : 2 ^ 52 * (unitsPerOne : Int) ≤ f64Units (segProduct ms sr)) : segCount ms sr = 2 ^ 52 := by
  rw [segCount_of_not_neg h0, segClamp_rhe_of_ge hfin hge]

theorem segCount_of_isInf (h0 : f64Lt ms f64PosZero = false) (hinf : f64IsInf (segProduct ms sr) = true) :
    segCount ms sr = 2 ^ 52 := by
  have hnot : f64IsFinite (segProduct ms sr) = false := (not_isFinite_iff _).mpr (.inl hinf)
  rw [segCount_of_not_neg h0, f64Rhe_of_not_finite hnot]
  exact segClamp_of_ge fun hfin => absurd (hnot.symm.trans hfin) Bool.false_ne_true

end

/-- Settles O59: a negative time, and the three ranges of the product that the clamp of R160 tells apart. -/
theorem segmentCountIsNearestAndBounded : Obligations.SegmentCountIsNearestAndBounded := by
  intro ms sr hms hsr
  have hsr53 : sr ≤ 2 ^ 53 := hsr.le.trans (by decide)
  exact ⟨segCount_le ms sr, segCount_eq_zero hsr53, segCount_nearest hms hsr53, segCount_of_ge, segCount_of_isInf⟩

end Sys2Proof.Machine
end

section
/-! PROOFS. The filter (43_filter.md): the FILT registers through every step (O39), the check of the cutoff (O43), the
normalized cutoff (O44), and the coefficients a filtered render leaves (O60). -/

namespace Sys2Proof.Machine

/-! ### What a command does to the FILT registers (10_state.md R40) -/

/-- The FILT registers together, as the coefficients they hold. -/
def State.filt (s : State) : FilterCoeffs where
  wn := s.filtWn
  b0 := s.filtB0
  b1 := s.filtB1
  a1 := s.filtA1

theorem SameBanks.filt {s t : State} (h : SameBanks s t) : t.filt = s.filt := by
  rw [State.filt, State.filt, h.filtWn, h.filtB0, h.filtB1, h.filtA1]

/-- What a completed render leaves in the FILT registers: its coefficients when it was filtered. -/
def renderedFilt (s : State) : FilterCoeffs := if (snapshot s).filtEn then derivedCoeffs (snapshot s) else s.filt

theorem commit_filt (tb : Bank) (s : State) : (commit tb (renderResult (snapshot s)) s).filt = renderedFilt s := by
  have hcoeffs : (renderResult (snapshot s)).coeffs =
      if (snapshot s).filtEn then some (derivedCoeffs (snapshot s)) else none := rfl
  rw [commit_eq, hcoeffs, renderedFilt]
  cases (snapshot s).filtEn <;> rfl

theorem completed_filt (i : Instr) (s : State) :
    (completed i s).filt = match i with
      | .nop | .deactivate => s.filt
      | .render | .activate | .tick => renderedFilt s := by
  cases i with
  | nop | deactivate => rfl
  | render | activate | tick => exact commit_filt s.playBank.other s

/-! ### The FILT registers stay finite (43_filter.md R184, 93_implementation_defined.md U12) -/

theorem FiltFinite.of_filt_eq {s t : State} (hf : FiltFinite s) (h : t.filt = s.filt) : FiltFinite t := by
  obtain ⟨hwn, hb0, hb1, ha1⟩ := FilterCoeffs.mk.inj h
  exact ⟨hwn ▸ hf.wn, hb0 ▸ hf.b0, hb1.trans (hf.b1.trans hb0.symm), ha1 ▸ hf.a1⟩

theorem filtFinite_reset : FiltFinite State.reset := ⟨by decide, by decide, rfl, by decide⟩

/-- Registers that hold the coefficients of a filtered render that passes its checks are finite, by the bounds of K,
whatever TAN64 is. -/
theorem FiltFinite.of_derived {P : Params} {t : State} (hen : P.filtEn = true) (hcut : ValidCutoff P)
    (h : t.filt = derivedCoeffs P) : FiltFinite t := by
  obtain ⟨hwn, hb0, hb1, ha1⟩ := FilterCoeffs.mk.inj h
  obtain ⟨-, hwnfin, -⟩ := normalizedCutoff_mem (hcut hen).2
  obtain ⟨hb0fin, -, ha1fin⟩ := derivedCoeffs_finite hen hcut
  exact ⟨hwn ▸ hwnfin, hb0 ▸ hb0fin, hb1.trans hb0.symm, ha1 ▸ ha1fin⟩

theorem FiltFinite.of_rendered {s t : State} (hf : FiltFinite s) (hr : Renderable (snapshot s))
    (h : t.filt = renderedFilt s) : FiltFinite t := by
  unfold renderedFilt at h
  split at h
  case isTrue hen => exact .of_derived hen hr.cutoff h
  case isFalse => exact hf.of_filt_eq h

theorem FiltFinite.of_completed {i : Instr} {s : State} (hf : FiltFinite s) (hc : Completes i s) :
    FiltFinite (completed i s) := by
  have h := completed_filt i s
  cases i with
  | nop | deactivate => exact hf.of_filt_eq h
  | render => exact hf.of_rendered hc h
  | activate | tick => exact hf.of_rendered hc.2 h

theorem FiltFinite.of_word {w : Word64} {s t : State} (hf : FiltFinite s) (h : runWord w s = .next t) :
    FiltFinite t := by
  rcases word_cases h with ⟨i, -, hc, rfl⟩ | ⟨op, c, rfl⟩
  · exact (hf.of_completed hc).of_filt_eq (epilogue_sameBanks ..).filt
  · exact hf.of_filt_eq (epilogue_sameBanks ..).filt

theorem FiltFinite.of_delivered {s t : State} {e : Event} (hf : FiltFinite s) (h : Delivered s e t) :
    FiltFinite t := by
  have hreply : FiltFinite { s with reply := .writeDone } := hf.of_filt_eq rfl
  cases h with
  | reset => exact filtFinite_reset.of_filt_eq rfl
  | word _ _ hw => exact hreply.of_word hw
  | register r image data => exact hreply.of_filt_eq (writeReg_sameBanks ..).filt
  | answer => exact hf.of_filt_eq rfl

/-- Settles O39, event by event: only a reset and a filtered render write the FILT registers. -/
theorem everyStepKeepsFiltFinite : Obligations.EveryStepKeepsFiltFinite := by
  intro s t hf h
  rcases step_cases h with rfl | ⟨e, rest, -, he⟩
  · exact hf
  · have hrest : FiltFinite { s with inbox := rest } := hf.of_filt_eq rfl
    exact hrest.of_delivered (delivered_of_step he)

/-! ### The normalized cutoff (43_filter.md R180, R181) -/

/-- PRED1 is the pattern before 1.0, so a value below 1.0 is at most PRED1. -/
theorem le_pred1_of_lt_one {x : F64} (hx : f64IsFinite x = true) (h : f64Units x < unitsPerOne) :
    f64Le x pred1 = true := by
  rw [← f64Units_one, ← key_lt_iff, show f64Key f64One = f64Key pred1 + 1 by decide] at h
  exact (le_iff_key (not_isNaN_of_finite hx) (by decide)).mpr (Int.lt_add_one_iff.mp h)

/-- Settles O44: the two branches of the clamp; what passes the check of R182 in the second one is finite and
below 1.0. -/
theorem normalizedCutoffIsClampedBelowOne : Obligations.NormalizedCutoffIsClampedBelowOne := by
  intro cutoff sr q
  have hclamped (h : f64Le f64One q = true) : normalizedCutoff cutoff sr = pred1 := if_pos h
  have hquotient (h : ¬ f64Le f64One q = true) : normalizedCutoff cutoff sr = q := if_neg h
  refine ⟨hclamped, fun h => hquotient (Bool.eq_false_iff.mp h), fun hpos => ?_⟩
  by_cases hone : f64Le f64One q = true
  · rw [hclamped hone]
    decide
  · rw [hquotient hone] at hpos ⊢
    obtain ⟨hfin, -, hlt⟩ := finite_of_between hpos hone
    exact ⟨le_pred1_of_lt_one hfin hlt, hfin⟩

/-! ### The coefficients (43_filter.md R183, R184) -/

/-- Settles O60: the completed command's FILT registers, and K from a normalized cutoff in (0, 1]. -/
theorem filteredRenderDerivesItsCoefficients : Obligations.FilteredRenderDerivesItsCoefficients := by
  intro s i hen hr (h : Renders i s)
  have hfilt : (completed i s).filt = derivedCoeffs (snapshot s) := by
    have hrendered : renderedFilt s = derivedCoeffs (snapshot s) := if_pos hen
    rw [completed_filt]
    rcases h with rfl | ⟨rfl, -⟩ | ⟨rfl, -⟩ <;> exact hrendered
  obtain ⟨hwnpos, hwn⟩ := normalizedCutoff_mem (hr.cutoff hen).2
  obtain ⟨hKfin, hKpos⟩ := cornerK_pos hwnpos hwn
  exact ⟨hKfin, hKpos, _, exec_of_renderable h hr, congrArg FilterCoeffs.wn hfilt, congrArg FilterCoeffs.b0 hfilt,
    congrArg FilterCoeffs.b1 hfilt, congrArg FilterCoeffs.a1 hfilt⟩

/-! ### The check of the cutoff (43_filter.md R182) -/

/-- The state with another value in CUTOFF_HZ. -/
def State.withCutoff (s : State) (c : F64) : State := { s with cutoffHz := c }

/-- With the filter off a render does not read CUTOFF_HZ. -/
theorem render_withCutoff {s : State} (h : s.filtEn = false) (c : F64) :
    render (snapshot (s.withCutoff c)) = render (snapshot s) := by
  have hcoeffs (t : State) (ht : t.filtEn = false) : renderCoeffs (snapshot t) = .ok none :=
    if_neg (Bool.eq_false_iff.mp ht)
  rw [render, render, hcoeffs s h, hcoeffs (s.withCutoff c) h]
  rfl

theorem commit_withCutoff (tb : Bank) (r : Rendered) (s : State) (c : F64) :
    commit tb r (s.withCutoff c) = (commit tb r s).withCutoff c := by
  rw [commit_eq, commit_eq]
  rfl

/-- With the filter off a render from two states that differ in CUTOFF_HZ fails with one error, or ends in two states
that differ in CUTOFF_HZ. -/
theorem renderInto_withCutoff {s : State} (h : s.filtEn = false) (c : F64) (tb : Bank) :
    renderInto tb (s.withCutoff c) = (renderInto tb s).map (·.withCutoff c) := by
  unfold renderInto
  rw [render_withCutoff h c]
  cases render (snapshot s) with
  | error e => rfl
  | ok r => exact congrArg Except.ok (commit_withCutoff tb r s c)

/-- The end of a command does not read CUTOFF_HZ. -/
theorem finish_withCutoff (op : Byte) (s : State) (c : F64) (r : Except CmdError State) :
    finish op (s.withCutoff c) (r.map (·.withCutoff c)) = (finish op s r).withCutoff c := by
  cases r <;> rfl

/-- With the filter off no command's effect depends on CUTOFF_HZ. -/
theorem exec_withCutoff {s : State} (h : s.filtEn = false) (c : F64) (i : Instr) :
    ∃ t, exec i s = .next t ∧ exec i (s.withCutoff c) = .next (t.withCutoff c) := by
  have hbank : targetBank (s.withCutoff c) = targetBank s := rfl
  have hon : (s.withCutoff c).on = s.on := rfl
  have hrender := renderInto_withCutoff h c (targetBank s)
  cases i with
  | nop => exact ⟨_, rfl, rfl⟩
  | render => exact ⟨_, rfl, by rw [exec, execRender, hbank, hrender, finish_withCutoff]⟩
  | activate =>
    refine ⟨_, rfl, ?_⟩
    rw [exec, execActivate, hbank, hon, hrender, ← finish_withCutoff]
    cases s.on
    · cases renderInto (targetBank s) s <;> rfl
    · rfl
  | deactivate =>
    refine ⟨_, rfl, ?_⟩
    rw [exec, execDeactivate, hon, ← finish_withCutoff]
    cases s.on <;> rfl
  | tick =>
    refine ⟨_, rfl, ?_⟩
    rw [exec, execTick, hbank, hon, hrender, ← finish_withCutoff]
    cases s.on
    · rfl
    · cases renderInto (targetBank s) s <;> rfl

/-- Settles O43: the last of the render's checks fails, and the filter-off commands by `exec_withCutoff`. -/
theorem invalidCutoffFailsOnlyFilteredRenders : Obligations.InvalidCutoffFailsOnlyFilteredRenders := by
  refine ⟨fun s i h0 hfit hv hen hbad (h : Renders i s) => ?_, fun s i c hoff => exec_withCutoff hoff c i⟩
  have hinvalid : ¬ ValidCutoff (snapshot s) := by
    intro hcut
    obtain ⟨hfin, hpos⟩ := hcut hen
    rcases hbad with hbad | hbad
    · exact absurd (hfin.symm.trans hbad) (by decide)
    · exact absurd (hpos.symm.trans hbad) (by decide)
  exact exec_of_renderFails h (.cutoff h0 hfit hv hinvalid)

end Sys2Proof.Machine
end

section
/-! PROOFS. The five commands: what each leaves when it completes and when it fails (O22 to O26), ON after each (O27),
the epilogue of every delivered word (O28), and the step that delivers a command (O4) (44_commands.md). -/

namespace Sys2Proof.Machine

/-! ### Completing and failing (44_commands.md R202 to R206) -/

theorem exec_of_completes {i : Instr} {s : State} (hc : Completes i s) :
    exec i s = .next (epilogue i.opcode .ok (completed i s)) := by
  cases i with
  | nop => rfl
  | render => exact exec_of_renderable (.inl rfl) hc
  | activate => exact exec_of_renderable (.inr (.inl ⟨rfl, hc.1⟩)) hc.2
  | deactivate =>
    have hon : s.on = true := hc
    rw [exec, execDeactivate, hon]
    rfl
  | tick => exact exec_of_renderable (.inr (.inr ⟨rfl, hc.1⟩)) hc.2

theorem exec_of_commandFails {i : Instr} {s : State} {e : CmdError} (hf : CommandFails i s e) :
    exec i s = .next (raiseCmdError e i.opcode s) := by
  cases i with
  | nop => exact hf.elim
  | render => exact exec_of_renderFails (.inl rfl) hf
  | activate =>
    rcases hf with ⟨hon, rfl⟩ | ⟨hoff, hf⟩
    · rw [exec, execActivate, hon]
      rfl
    · exact exec_of_renderFails (.inr (.inl ⟨rfl, hoff⟩)) hf
  | deactivate =>
    obtain ⟨hoff, rfl⟩ := hf
    rw [exec, execDeactivate, hoff]
    rfl
  | tick =>
    rcases hf with ⟨hoff, rfl⟩ | ⟨hon, hf⟩
    · rw [exec, execTick, hoff]
      rfl
    · exact exec_of_renderFails (.inr (.inr ⟨rfl, hon⟩)) hf

/-! ### A render that completes (44_commands.md R203, R204, R206) -/

/-- `RenderedInto` says nothing of the fields that are each command's own. -/
theorem RenderedInto.of_commandFields {tb : Bank} {s t : State} (h : RenderedInto tb s t) (on : Bool) (playBank : Bank)
    (result : ResultCode) (lastOp : Byte) :
    RenderedInto tb s { t with on := on, playBank := playBank, result := result, lastOp := lastOp } :=
  { h with
    length := by cases tb <;> exact h.length
    otherLength := by cases tb <;> exact h.otherLength
    params := { h.params with }
    outside := { h.outside with } }

/-- What a completed command leaves in PLAY_BANK. -/
theorem completed_playBank (i : Instr) (s : State) :
    (completed i s).playBank = match i with
      | .activate | .tick => s.playBank.other
      | .nop | .render | .deactivate => s.playBank := by
  cases i <;> simp [completed]

theorem completed_renderedInto {i : Instr} {s : State} (h : Renders i s) (hr : Renderable (snapshot s)) :
    RenderedInto s.playBank.other s { completed i s with result := .ok, lastOp := i.opcode } := by
  have hc := commit_renderedInto (tb := s.playBank.other) hr
  rcases h with rfl | ⟨rfl, -⟩ | ⟨rfl, -⟩ <;> exact hc.of_commandFields ..

/-- A render that passes its checks completes its command; ON and PLAY_BANK are what that command makes of them. -/
theorem exec_renderedInto {i : Instr} {s : State} (h : Renders i s) (hr : Renderable (snapshot s)) :
    ∃ t, exec i s = .next t ∧ RenderedInto s.playBank.other s t ∧ t.on = (completed i s).on ∧
      t.playBank = (completed i s).playBank ∧ t.result = .ok ∧ t.lastOp = i.opcode :=
  ⟨_, by rw [exec_of_renderable h hr, epilogue_ok], completed_renderedInto h hr, rfl, rfl, rfl, rfl⟩

/-- Settles O23: RENDER leaves ON and PLAY_BANK alone. -/
theorem renderFillsTheNonPlayingBank : Obligations.RenderFillsTheNonPlayingBank := by
  refine fun s => ⟨fun hr => ?_, fun e hf => exec_of_commandFails (i := .render) hf⟩
  obtain ⟨t, he, hinto, hon, hbank, hresult, hop⟩ := exec_renderedInto (i := .render) (.inl rfl) hr
  exact ⟨t, he, hinto, hon.trans (completed_on ..), hbank.trans (completed_playBank ..), hresult, hop⟩

/-- Settles O24: ACTIVATE in Off is a render that sets ON and PLAY_BANK; `CommandFails` has its two failures. -/
theorem activateRendersThenTurnsOn : Obligations.ActivateRendersThenTurnsOn := by
  refine fun s => ⟨fun hoff hr => ?_, fun hoff e hf => exec_of_commandFails (i := .activate) (.inr ⟨hoff, hf⟩),
    fun hon => exec_of_commandFails (i := .activate) (.inl ⟨hon, rfl⟩)⟩
  obtain ⟨t, he, hinto, hon, hbank, hresult, hop⟩ := exec_renderedInto (i := .activate) (.inr (.inl ⟨rfl, hoff⟩)) hr
  exact ⟨t, he, hinto, hon.trans (completed_on ..), hbank.trans (completed_playBank ..), hresult, hop⟩

/-- Settles O26: TICK in On is a render that sets PLAY_BANK and leaves ON as it was, which is 1. -/
theorem tickRendersThenSwapsBanks : Obligations.TickRendersThenSwapsBanks := by
  refine fun s => ⟨fun hs hr => ?_, fun hs e hf => exec_of_commandFails (i := .tick) (.inr ⟨hs, hf⟩),
    fun hoff => exec_of_commandFails (i := .tick) (.inl ⟨hoff, rfl⟩)⟩
  obtain ⟨t, he, hinto, hon, hbank, hresult, hop⟩ := exec_renderedInto (i := .tick) (.inr (.inr ⟨rfl, hs⟩)) hr
  exact ⟨t, he, hinto, (hon.trans (completed_on ..)).trans hs, hbank.trans (completed_playBank ..), hresult, hop⟩

/-! ### NOP and DEACTIVATE (44_commands.md R202, R205) -/

/-- Settles O22: NOP always completes, and its own part is the identity. -/
theorem nopWritesOnlyResultAndLastOp : Obligations.NopWritesOnlyResultAndLastOp := by
  intro s
  rw [exec_of_completes (i := .nop) trivial, epilogue_ok]
  rfl

/-- Settles O25: ON decides between completing and BAD_STATE. -/
theorem deactivateOnlyClearsOn : Obligations.DeactivateOnlyClearsOn := by
  refine fun s => ⟨fun hon => ?_, fun hoff => exec_of_commandFails (i := .deactivate) ⟨hoff, rfl⟩⟩
  rw [exec_of_completes (i := .deactivate) hon, epilogue_ok]
  rfl

/-! ### ON after each command (44_commands.md R207) -/

/-- A command other than ACTIVATE and DEACTIVATE leaves ON as it was, whether it completes or fails. -/
theorem exec_keeps_on {i : Instr} (ha : i ≠ .activate) (hd : i ≠ .deactivate) (s : State) :
    ∃ t, exec i s = .next t ∧ t.on = s.on := by
  rcases exec_cases i s with ⟨-, h⟩ | ⟨e, -, h⟩
  · refine ⟨_, h, (completed_on i s).trans ?_⟩
    cases i with
    | nop | render | tick => rfl
    | activate => exact absurd rfl ha
    | deactivate => exact absurd rfl hd
  · exact ⟨_, h, rfl⟩

/-- ACTIVATE turns the block On where its render passes; where it fails, ON is what it was. -/
theorem exec_activate_on (s : State) :
    ∃ t, exec .activate s = .next t ∧ (t.on = true ↔ s.on = true ∨ Renderable (snapshot s)) := by
  rcases exec_cases .activate s with ⟨⟨-, hr⟩, h⟩ | ⟨e, ⟨hon, -⟩ | ⟨hoff, hf⟩, h⟩
  · exact ⟨_, h, iff_of_true (completed_on ..) (.inr hr)⟩
  · exact ⟨_, h, iff_of_true hon (.inl hon)⟩
  · have hs : ¬ s.on = true := Bool.eq_false_iff.mp hoff
    exact ⟨_, h, iff_of_false hs (not_or.mpr ⟨hs, fun hr => hr.not_fails e hf⟩)⟩

/-- DEACTIVATE fails only in Off. -/
theorem exec_deactivate_on (s : State) : ∃ t, exec .deactivate s = .next t ∧ t.on = false := by
  rcases exec_cases .deactivate s with ⟨-, h⟩ | ⟨e, ⟨hoff, -⟩, h⟩
  · exact ⟨_, h, completed_on ..⟩
  · exact ⟨_, h, hoff⟩

/-- Settles O27, command by command. -/
theorem onFollowsTheTransitionTable : Obligations.OnFollowsTheTransitionTable := fun s =>
  ⟨exec_keeps_on (by decide) (by decide) s, exec_keeps_on (by decide) (by decide) s, exec_activate_on s,
    exec_deactivate_on s, exec_keeps_on (by decide) (by decide) s⟩

/-! ### The epilogue (44_commands.md R201, 60_exceptions.md R232) -/

/-- The ERR bit of a result code other than OK is the one below the code. -/
theorem ResultCode.errFlag_eq_shift {c : ResultCode} (h : c ≠ .ok) : c.errFlag = 1#8 <<< (c.code.toNat - 1) := by
  cases c
  case ok => exact absurd rfl h
  all_goals rfl

/-- What the end of a command begun in `s` leaves in LAST_OP, and in ERR by its result. -/
structure EndsCommand (op : Byte) (s t : State) : Prop where
  lastOp : t.lastOp = op
  failed : t.result ≠ .ok → t.err = s.err ||| (1#8 <<< (t.result.code.toNat - 1))
  succeeded : t.result = .ok → t.err = s.err ∨ t.err = s.err ||| 0x40#8

theorem raiseCmdError_endsCommand (e : CmdError) (op : Byte) (s : State) :
    EndsCommand op s (raiseCmdError e op s) where
  lastOp := rfl
  failed h := congrArg (s.err ||| ·) (ResultCode.errFlag_eq_shift h)
  succeeded h := absurd h e.result_ne_ok

/-- Of the flags, a completed command sets at most NAN_SAMPLE (60_exceptions.md R233). -/
theorem completed_err (i : Instr) (s : State) :
    (completed i s).err = s.err ∨ (completed i s).err = s.err ||| nanSampleFlag := by
  have hcommit : ∀ tb r, (commit tb r s).err = s.err ∨ (commit tb r s).err = s.err ||| nanSampleFlag := by
    intro tb r
    rw [commit_err]
    exact (ite_eq_or_eq ..).symm
  cases i with
  | nop | deactivate => exact .inl rfl
  | render | activate | tick => exact hcommit ..

theorem exec_endsCommand (i : Instr) (s : State) : ∃ t, exec i s = .next t ∧ EndsCommand i.opcode s t := by
  rcases exec_cases i s with ⟨-, h⟩ | ⟨e, -, h⟩
  · rw [epilogue_ok] at h
    exact ⟨_, h, rfl, fun hne => absurd rfl hne, fun _ => completed_err i s⟩
  · exact ⟨_, h, raiseCmdError_endsCommand ..⟩

/-- A delivered word ends as a command does, legal or not, with its own bits 7:0 as the opcode. -/
theorem runWord_endsCommand (w : Word64) (s : State) :
    ∃ t, runWord w s = .next t ∧ EndsCommand (w.extractLsb' 0 8) s t := by
  rcases runWord_cases w s with ⟨i, hd, h⟩ | ⟨-, h⟩
  · obtain ⟨-, hop⟩ := (eq_encode_iff w i).mp (eq_encode_of_decode hd)
    rw [h, hop]
    exact exec_endsCommand i s
  · rw [h, ← opcodeField_eq_extract]
    exact ⟨_, rfl, raiseCmdError_endsCommand ..⟩

/-- Settles O28: the step that delivers the word runs it. -/
theorem everyWordEndsWithTheEpilogue : Obligations.EveryWordEndsWithTheEpilogue := by
  intro s w
  rw [step_cmdWrite_whole]
  obtain ⟨t, h, hend⟩ := runWord_endsCommand w { s with reply := .writeDone }
  exact ⟨t, h, hend.lastOp, hend.failed, hend.succeeded⟩

/-! ### The step that delivers a command (44_commands.md R200) -/

/-- A step takes the oldest event off the inbox and delivers it. -/
theorem step_of_inbox_cons {s : State} {e : Event} {rest : List Event} (h : s.inbox = e :: rest) :
    step s = step (State.withEvent { s with inbox := rest } e) := by
  rw [step, h]
  rfl

/-- Settles O4: a word that decodes to a command is that command's encoding. -/
theorem stepRunsTheDecodedCommand : Obligations.StepRunsTheDecodedCommand := by
  intro s w i rest hinbox hd _
  rw [step_of_inbox_cons hinbox, step_cmdWrite_whole, eq_encode_of_decode hd, runWord_encode]

end Sys2Proof.Machine
end

section
/-! PROOFS. Idling and running on (O6, O37), what a failed command writes (O29), which failing check is reported (O30),
and the ERR bits one host access sets (O13) (60_exceptions.md). -/

namespace Sys2Proof.Machine

/-! ### Idling and running on (60_exceptions.md R230, R245, R246) -/

/-- Settles O6: the step's case of an empty inbox. -/
theorem idleStepHoldsAllState : Obligations.IdleStepHoldsAllState := by
  intro s h
  rw [step, h]

theorem hostWrite_next (off : Offset) (n : Nat) (v : Word64) (s : State) : ∃ t, hostWrite off n v s = .next t := by
  rcases hostWrite_cases off n v s with ⟨-, -, h⟩ | ⟨r, -, -, -, h⟩ | ⟨-, h⟩
  · obtain ⟨t, hw, -⟩ := runWord_endsCommand (placedData off n v) s
    exact ⟨t, h.trans hw⟩
  · exact ⟨_, h⟩
  · exact ⟨_, h⟩

theorem deliver_next (e : Event) (s : State) : ∃ t, deliver e s = .next t := by
  cases e with
  | hostWrite off n v => exact hostWrite_next off n v _
  | hostRead | sinkRead | reset => exact ⟨_, rfl⟩

theorem step_next (s : State) : ∃ t, step s = .next t := by
  cases hi : s.inbox with
  | nil => exact ⟨s, idleStepHoldsAllState s hi⟩
  | cons e rest =>
    rw [step_of_inbox_cons hi, step_withEvent]
    exact deliver_next e _

/-- A machine whose every step answers a next state runs any number of steps. -/
theorem run_next {M : Host.Core} (hstep : ∀ s, ∃ t, M.step s = .next t) (k : Nat) (s : M.State) :
    ∃ t, M.run k s = .next t := by
  induction k generalizing s with
  | zero => exact ⟨s, rfl⟩
  | succ k ih =>
    obtain ⟨u, hu⟩ := hstep s
    obtain ⟨t, ht⟩ := ih u
    exact ⟨t, by rw [Host.Core.run, hu]; exact ht⟩

/-- Settles O37, from one step by induction on their number. -/
theorem noRunEverStops : Obligations.NoRunEverStops := run_next (M := Sys2Proof.core) step_next

/-! ### A failed command (60_exceptions.md R234) -/

/-- Settles O29: a word that does not complete its command leaves an epilogue on the state it found, and its LAST_OP is
the word's. -/
theorem failedCommandMakesThreeWrites : Obligations.FailedCommandMakesThreeWrites := by
  intro s t w h hne
  obtain ⟨t', h', hend⟩ := runWord_endsCommand w s
  cases h.symm.trans h'
  rcases word_cases h with ⟨i, -, -, rfl⟩ | ⟨op, c, rfl⟩
  · exact absurd rfl hne
  · rw [← hend.failed hne, ← hend.lastOp]
    rfl

/-! ### The first failing check (60_exceptions.md R231, R235) -/

theorem result_of_illegal {w : Word64} {s t : State} (hill : ∀ i, w ≠ encode i) (h : runWord w s = .next t) :
    t.result = .illegalCmd := by
  have hw : ¬ legalWord w = true := by
    rw [legalWord_iff_exists_encode]
    exact not_exists.mpr hill
  cases (runWord_of_illegal hw s).symm.trans h
  rfl

theorem result_of_commandFails {i : Instr} {s t : State} {e : CmdError} (hf : CommandFails i s e)
    (h : runWord (encode i) s = .next t) : t.result = e.result := by
  rw [runWord_encode, exec_of_commandFails hf] at h
  cases h
  rfl

/-- A rendering command fails as its render does. -/
theorem Renders.commandFails {i : Instr} {s : State} {e : CmdError} (h : Renders i s)
    (hf : RenderFails (snapshot s) e) : CommandFails i s e := by
  rcases h with rfl | ⟨rfl, hoff⟩ | ⟨rfl, hon⟩
  · exact hf
  · exact .inr ⟨hoff, hf⟩
  · exact .inr ⟨hon, hf⟩

/-- Settles O30: each check that fails is the `CommandFails` of its command, whatever the checks after it would say. -/
theorem firstFailingCheckIsReported : Obligations.FirstFailingCheckIsReported := by
  intro s w
  obtain ⟨t, h, -⟩ := runWord_endsCommand w s
  refine ⟨t, h, fun hill => result_of_illegal hill h, ?_, ?_, ?_⟩
  · rintro rfl hon
    exact result_of_commandFails (i := .activate) (.inl ⟨hon, rfl⟩) h
  · rintro (rfl | rfl) hoff
    · exact result_of_commandFails (i := .deactivate) ⟨hoff, rfl⟩ h
    · exact result_of_commandFails (i := .tick) (.inl ⟨hoff, rfl⟩) h
  · rintro e hf (rfl | ⟨rfl, hoff⟩ | ⟨rfl, hon⟩)
    · exact result_of_commandFails (Renders.commandFails (.inl rfl) hf) h
    · exact result_of_commandFails (Renders.commandFails (.inr (.inl ⟨rfl, hoff⟩)) hf) h
    · exact result_of_commandFails (Renders.commandFails (.inr (.inr ⟨rfl, hon⟩)) hf) h

/-! ### The ERR bits one access sets (60_exceptions.md R232, R233, R235) -/

/-- Of the ERR bits set in `t`, at most one is clear in `s`. -/
def SetsAtMostOneErrBit (s t : State) : Prop :=
  ∃ b : Nat, ∀ b' : Nat, b' ≠ b → t.err.getLsbD b' = true → s.err.getLsbD b' = true

theorem SetsAtMostOneErrBit.of_no_new {s t : State} (h : ∀ b : Nat, t.err.getLsbD b = true → s.err.getLsbD b = true) :
    SetsAtMostOneErrBit s t := ⟨0, fun b' _ => h b'⟩

theorem SetsAtMostOneErrBit.of_eq {s t : State} (h : t.err = s.err) : SetsAtMostOneErrBit s t :=
  .of_no_new fun _ hb => h ▸ hb

theorem SetsAtMostOneErrBit.of_or_shift {s t : State} (b : Nat) (h : t.err = s.err ||| (1#8 <<< b)) :
    SetsAtMostOneErrBit s t := by
  refine ⟨b, fun b' hne hb' => ?_⟩
  have hother : (1#8 <<< b).getLsbD b' = false := by
    rw [← BitVec.twoPow_eq, BitVec.getLsbD_twoPow]
    simp [hne.symm]
  rwa [h, BitVec.getLsbD_or, hother, Bool.or_false] at hb'

theorem EndsCommand.setsAtMostOneErrBit {op : Byte} {s t : State} (h : EndsCommand op s t) :
    SetsAtMostOneErrBit s t := by
  by_cases hok : t.result = .ok
  · exact (h.succeeded hok).elim .of_eq (.of_or_shift 6)
  · exact .of_or_shift _ (h.failed hok)

/-- A register write sets no flag but BAD_KIND, and one to ERR only clears flags (10_state.md R24, R38). -/
theorem writeReg_setsAtMostOneErrBit (r : Reg) (image data : Word64) (s : State) :
    SetsAtMostOneErrBit s (writeReg r image data s) := by
  cases r
  case wave =>
    rcases writeWave_cases image s with ⟨k, -, h⟩ | ⟨-, h⟩ <;> rw [writeReg, h]
    · exact .of_eq rfl
    · exact .of_or_shift 5 rfl
  case err =>
    refine .of_no_new fun b hb => ?_
    rw [writeReg, clearErr_err, BitVec.getLsbD_and] at hb
    exact (Bool.and_eq_true_iff.mp hb).1
  all_goals exact .of_eq rfl

theorem hostRead_setsAtMostOneErrBit (off : Offset) (n : Nat) (s : State) :
    SetsAtMostOneErrBit s (hostRead off n s) := by
  rcases hostRead_cases off n s with ⟨r, -, -, h⟩ | ⟨-, h⟩ | ⟨-, h⟩ <;> rw [h]
  · exact .of_eq rfl
  · exact .of_eq rfl
  · exact .of_or_shift 7 rfl

theorem hostWrite_setsAtMostOneErrBit {off : Offset} {n : Nat} {v : Word64} {s t : State}
    (h : hostWrite off n v s = .next t) : SetsAtMostOneErrBit s t := by
  rcases hostWrite_cases off n v s with ⟨-, -, hw⟩ | ⟨r, -, -, -, hw⟩ | ⟨-, hw⟩ <;> rw [hw] at h
  · obtain ⟨t', h', hend⟩ := runWord_endsCommand (placedData off n v) s
    cases h.symm.trans h'
    exact hend.setsAtMostOneErrBit
  · cases h
    exact writeReg_setsAtMostOneErrBit ..
  · cases h
    exact .of_or_shift 7 rfl

/-- Settles O13: reads and writes by their cases; a write's completion is no flag. -/
theorem hostAccessSetsAtMostOneErrBit : Obligations.HostAccessSetsAtMostOneErrBit := by
  rintro s t e h (⟨off, n, rfl⟩ | ⟨off, n, v, rfl⟩)
  · cases h
    exact hostRead_setsAtMostOneErrBit off n s
  · exact hostWrite_setsAtMostOneErrBit (s := { s with reply := .writeDone }) h

end Sys2Proof.Machine
end


section
/-! PROOFS. What a reset leaves (O19) and the reset state's invariants (O40) (70_reset_and_hazards.md R260, R261). -/

namespace Sys2Proof.Machine

/-! ### The values a reset leaves -/

/-- CAPACITY apart, whose value is a parameter (10_state.md R41). -/
theorem regImage_reset {r : Reg} (hr : r ≠ .capacity) : regImage State.reset r = 0 := by
  cases r with
  | capacity => exact absurd rfl hr
  | _ => rfl

/-- What a reset keeps or counts is no register: the events to come, the answer and the free draws (log entries 4, 5
and 13). -/
theorem regImage_platformReset (s : State) (r : Reg) : regImage (platformReset s) r = regImage State.reset r := by
  cases r <;> rfl

/-- Where no render has written a byte, every byte is the free draw (log entry 4). -/
theorem byteAt_of_mem_nil {s : State} (h : s.mem = []) (a : Nat) :
    s.byteAt a = Config.unwrittenByte s.drawEpoch a := by
  rw [State.byteAt, h, memByte?_nil, Option.getD_none]

theorem byteAt_platformReset (s : State) (a : Nat) :
    (platformReset s).byteAt a = Config.unwrittenByte (s.drawEpoch + 1) a :=
  byteAt_of_mem_nil (platformReset_mem s) a

/-- Settles O19: the delivered event is `platformReset`, whose registers are those of `State.reset`. -/
theorem resetLeavesTheResetValues : Obligations.ResetLeavesTheResetValues := by
  refine ⟨fun s => ⟨platformReset s, rfl, platformReset_inbox s, fun r hr => ?_, ?_, byteAt_platformReset s⟩,
    fun r => regImage_reset, rfl, rfl, fun s => rfl⟩
  · rw [regImage_platformReset, regImage_reset hr]
  · rw [State.playValid, platformReset_on]

/-- Settles O40, the base case of O38 and O39. -/
theorem resetStateHasTheInvariants : Obligations.ResetStateHasTheInvariants := ⟨inv_reset, filtFinite_reset⟩

end Sys2Proof.Machine
end


section
/-! PROOFS. A fetched word is the next command (O5, log entry 1; 30_encoding.md R90, R99). -/

namespace Sys2Proof.Machine

/-- All 64 bits of a fetched command word arrive, by one 64-bit write to CMD (30_encoding.md R99, log entry 1). -/
theorem withFetchWord_toNat (s : State) (w : Word64) :
    s.withFetchWord 64 w.toNat = s.withEvent (.hostWrite 0x060 8 w) := by
  have hword : BitVec.ofNat 64 (w.toNat % 2 ^ 64) = w := by
    rw [Nat.mod_eq_of_lt w.isLt, BitVec.ofNat_toNat, BitVec.setWidth_eq]
  rw [State.withFetchWord, hword]
  rfl

/-- Settles O5: the fetched word is a whole write to CMD, and an encoding runs its command. -/
theorem fetchedWordIsTheNextCommand : Obligations.FetchedWordIsTheNextCommand := by
  intro s i
  rw [withFetchWord_toNat, step_cmdWrite_whole, runWord_encode]

end Sys2Proof.Machine
end
